-- ==== Sys2Proof/Word.lean ====
section
/-! DEFINITION. The word types of the block: 64-bit command and register words, 32-bit BIS addresses, bytes
(spec/30_encoding.md R70, spec/20_memory.md R50). -/

namespace Sys2Proof

/-- One byte of the Blob Input Space or of a frame (R50, R80). -/
abbrev Byte := BitVec 8

/-- A 64-bit command word (R70), register value (R36) or clock value (R40). -/
abbrev Word := BitVec 64

/-- A byte address of the Blob Input Space, or a blob length (R50, R24, D8). -/
abbrev Addr := BitVec 32

end Sys2Proof
end

