-- ==== Sys2Proof/Syntax.lean ====
section
/-! DEFINITION. The commands of the block, one constructor for each row of spec/opcode_table.json
(spec/30_encoding.md R73), and the named command errors (spec/60_exceptions.md R200). -/

namespace Sys2Proof

/-- A command with its operands as R71 assembles them. -/
inductive Instr where
  /-- `NOP` (R175) -/
  | nop
  /-- `BLOB n` (R172) -/
  | blob (n : Addr)
  /-- `FRAME n` (R101) -/
  | frame (n : Addr)
  /-- `SAMPLE n` (R130) -/
  | sample (n : Addr)
  /-- `DISPATCH flags, len` (R150) -/
  | dispatch (flags len : Byte)
  /-- `SMP_START` (R134) -/
  | smpStart
  /-- `READREG idx` (R176) -/
  | readreg (idx : Byte)
  deriving DecidableEq, Repr

/-- The command errors (R200); codes 0 and 5..15 name none. -/
inductive CmdError where
  /-- cause 1: `OP` in 0x7..0xF (R202) -/
  | reservedOpcode
  /-- cause 2: a nonzero reserved or must-be-zero field (R203) -/
  | reservedField
  /-- cause 3: DISPATCH with a length above `MAX_FRAME_PAYLOAD` (R204) -/
  | frameTooLong
  /-- cause 4: READREG of an unassigned index (R205) -/
  | badRegIndex
  deriving DecidableEq, Repr

end Sys2Proof
end

