-- ==== Sys2Proof/Decode.lean ====
section
/-! DEFINITION. The command word: its fields, the total decoder and the encoder (spec/30_encoding.md R70 to R76). -/

namespace Sys2Proof

/-- The six fields of a command word (R70). -/
structure Fields where
  op : BitVec 4
  rsv0 : BitVec 4
  a : Byte
  b : Byte
  rsv1 : Byte
  n : Addr
  deriving DecidableEq, Repr

/-- The fields of a word, each at the bits R70 gives it. -/
def Fields.ofWord (w : Word) : Fields where
  op := w.extractLsb' 0 4
  rsv0 := w.extractLsb' 4 4
  a := w.extractLsb' 8 8
  b := w.extractLsb' 16 8
  rsv1 := w.extractLsb' 24 8
  n := w.extractLsb' 32 32

/-- The word of six fields, most significant first: `N, RSV1, B, A, RSV0, OP` (R70). -/
def Fields.toWord (f : Fields) : Word :=
  f.n ++ (f.rsv1 ++ (f.b ++ (f.a ++ (f.rsv0 ++ f.op))))

/-- What the decoder makes of a word: a command, or the command error its word raises (R75: the decoder is total). -/
inductive Decoded where
  | instr (i : Instr)
  | error (c : CmdError)
  deriving DecidableEq, Repr

/-- `RSV0` and `RSV1`, which are zero in every command (R74). -/
def Fields.reservedZero (f : Fields) : Bool := f.rsv0 == 0 && f.rsv1 == 0

/-- The fields that R74 requires to be zero for each `OP`, the reserved ones included. -/
def Fields.mustBeZero (f : Fields) : Bool :=
  f.reservedZero &&
  match f.op.toNat with
  | 0 => f.a == 0 && f.b == 0 && f.n == 0
  | 1 => f.a == 0 && f.b == 0
  | 2 => f.a == 0 && f.b == 0
  | 3 => f.a == 0 && f.b == 0
  | 4 => f.n == 0
  | 5 => f.a == 0 && f.b == 0 && f.n == 0
  | 6 => f.b == 0 && f.n == 0
  | _ => true

/-- The opcode map (R73) over the fields; none for the reserved opcodes. -/
def Fields.command (f : Fields) : Option Instr :=
  match f.op.toNat with
  | 0 => some .nop
  | 1 => some (.blob f.n)
  | 2 => some (.frame f.n)
  | 3 => some (.sample f.n)
  | 4 => some (.dispatch f.a f.b)
  | 5 => some .smpStart
  | 6 => some (.readreg f.a)
  | _ => none

/-- The checks of R75 in their order: the opcode first (cause 1), then the zero fields (cause 2). The value
checks, item 3 of R75, stand in the commands' own rules. -/
def Fields.decoded (f : Fields) : Decoded :=
  match f.command with
  | none => .error .reservedOpcode
  | some i => if f.mustBeZero then .instr i else .error .reservedField

/-- The decoder: total on every word (R75). -/
def decode (w : Word) : Decoded := (Fields.ofWord w).decoded

/-- The fields of a command's word (R70, R73, R85), with every unused field zero (R74). -/
def Instr.fields : Instr → Fields
  | .nop => ⟨0, 0, 0, 0, 0, 0⟩
  | .blob n => ⟨1, 0, 0, 0, 0, n⟩
  | .frame n => ⟨2, 0, 0, 0, 0, n⟩
  | .sample n => ⟨3, 0, 0, 0, 0, n⟩
  | .dispatch flags len => ⟨4, 0, flags, len, 0, 0⟩
  | .smpStart => ⟨5, 0, 0, 0, 0, 0⟩
  | .readreg idx => ⟨6, 0, idx, 0, 0, 0⟩

/-- The one 64-bit word of a command (R72, R86). -/
def encode (i : Instr) : Word := i.fields.toWord

/-- The decoder on an opcode-table word: bit k of the table's number is bit k of the command word (log entry 19). -/
def decodeTableWord (nbits w : Nat) : Option Instr :=
  match decode (BitVec.ofNat 64 (w % 2 ^ nbits)) with
  | .instr i => some i
  | .error _ => none

end Sys2Proof
end

