-- ==== Sys2Proof/Config.lean ====
section
/-! DEFINITION. What a build of the block fixes (spec/00_scope.md R8, R9), and the free values that stand for
what the spec leaves open (spec/10_state.md R34, spec/93_implementation_defined.md I14). -/

namespace Sys2Proof

/-- The implementation parameters of R8 with their ranges. `MAX_FRAME_PAYLOAD` outside 1..255 is not a legal
build (R9, D7), so no value of this type has one. BLOB_LEN_W, TIME_W, WINDOW_MS and MAX_DESTS are fixed by R8. -/
structure Params where
  /-- `MAX_FRAME_PAYLOAD`, the spec's M -/
  maxFramePayload : Nat
  /-- `DEST_ID_W` -/
  destIdW : Nat
  /-- `HANDLE_W` -/
  handleW : Nat
  /-- `SRC_ID_W` -/
  srcIdW : Nat
  /-- `ROUTE_ID_W` -/
  routeIdW : Nat
  maxFramePayload_pos : 1 ≤ maxFramePayload
  maxFramePayload_le : maxFramePayload ≤ 255
  destIdW_range : 1 ≤ destIdW ∧ destIdW ≤ 64
  handleW_range : 1 ≤ handleW ∧ handleW ≤ 64
  srcIdW_range : 1 ≤ srcIdW ∧ srcIdW ≤ 64
  routeIdW_range : 1 ≤ routeIdW ∧ routeIdW ≤ 64
  deriving DecidableEq, Repr

/-- The build an integrator asks for: refused outside the ranges of R8 (R9, I18). -/
def Params.build (m d h s r : Nat) : Option Params :=
  if hm : 1 ≤ m ∧ m ≤ 255 then
    if hd : 1 ≤ d ∧ d ≤ 64 then
      if hh : 1 ≤ h ∧ h ≤ 64 then
        if hs : 1 ≤ s ∧ s ≤ 64 then
          if hr : 1 ≤ r ∧ r ≤ 64 then some ⟨m, d, h, s, r, hm.1, hm.2, hd, hh, hs, hr⟩ else none
        else none
      else none
    else none
  else none

/-- The default of every parameter (R8). -/
def Params.default : Params :=
  ⟨180, 16, 16, 8, 8, by decide, by decide, by decide, by decide, by decide, by decide⟩

/-- `MAX_DESTS` (R8): the largest destination set one query returns. -/
def Config.maxDests : Nat := 255

/-- `WINDOW_MS` (R8): the sampling window in milliseconds. -/
def Config.windowMs : Nat := 1000

/-- What `OFFSET` holds when no command runs: any value (R34, I14; log entry 5). -/
opaque Config.freeOffset : Nat → Addr

/-- What byte k of `PBUF` holds when no command runs: any value (R34, I14; log entry 5). -/
opaque Config.freePbufByte : Nat → Nat → Byte

/-- What `SNAP` holds when no command runs: any list (R34, I14; log entry 5). -/
opaque Config.freeSnap : Nat → List Word

/-- What `J` holds when no command runs: any value (R34, I14; log entry 5). -/
opaque Config.freeJ : Nat → Byte

end Sys2Proof
end

