-- ==== Sys2Proof/Machine/State.lean ====
section
/-! DEFINITION. The state of the block: its registers (spec/10_state.md R20), the draws of its environment (R43), the
host's pending actions (spec/70_reset_and_hazards.md R248) and the log of channel transfers (R41, R42). -/

namespace Sys2Proof.Machine

/-- The Blob Input Space as the host holds it (spec/20_memory.md R50): address and byte pairs in canonical form. -/
abbrev Memory := List Host.Cell

/-- A resolved transport with its routing identifiers (R15, R159); opaque to the block. -/
structure Route where
  handle : Word
  sourceId : Word
  routingId : Word
  deriving DecidableEq, Repr

/-- One destination of a snapshot as the registry answers it: its descriptor, and what its resolve answers (R43). -/
structure DestAnswer where
  descriptor : Word
  route : Option Route
  deriving DecidableEq, Repr

/-- The environment draws of one command (R43), and the handshake that never completes if there is one (R244). -/
structure Env where
  /-- `blob`: the BIS contents, fixed for the whole command (R240) -/
  blob : Memory
  /-- `now`: the level on `now_ms` (R40) -/
  nowMs : Word
  /-- entry k is `snapshot(k)` with `route(k, ·)`; a query past the end is answered by the empty set (log entry 2) -/
  queries : List (List DestAnswer)
  /-- the channel transfer of the command, counted from 0, whose handshake never completes (R244; log entry 4) -/
  stall : Option Nat
  deriving DecidableEq, Repr

/-- An environment that answers no byte, the time 0 and no destination, and completes every handshake. -/
def Env.idle : Env := ⟨[], 0, [], none⟩

/-- Premise R242: every collaborator completes every handshake. -/
abbrev Env.handshakesComplete (e : Env) : Prop := e.stall = none

/-- What the host does at the block (R248). -/
inductive HostAction where
  /-- presents a word on `cmd`, with the draws that meet it (R42, R43) -/
  | command (word : Word) (env : Env)
  /-- asserts and releases `rst` while the block is idle (R230) -/
  | reset
  /-- presents a word and asserts `rst` when `completed` of its channel transfers have completed (R232) -/
  | resetDuring (word : Word) (env : Env) (completed : Nat)
  deriving DecidableEq, Repr

/-- A frame record (spec/30_encoding.md R80): length, flags and `MAX_FRAME_PAYLOAD` payload bytes. -/
structure Frame where
  length : Byte
  flags : Byte
  payload : List Byte
  deriving DecidableEq, Repr

/-- The six event forms of the output trace (spec/00_scope.md R14). -/
inductive Event where
  | frameOut (f : Frame)
  | destQuery
  | resolve (j : Byte) (d : Word)
  | send (j : Byte) (r : Route) (f : Frame)
  | rateOut (r : Word)
  | resp (status : BitVec 1) (cause : BitVec 4) (value : Word)
  deriving DecidableEq, Repr

/-- A completed channel transfer (R41): a byte read on `blob_rd`, or an event of the trace. -/
inductive Transfer where
  | blobRd (a : Addr)
  | event (e : Event)
  deriving DecidableEq, Repr

/-- The state of one block instance and of what stands at its ports. -/
structure State where
  /-- the build's parameters (R8), fixed for the life of the block (R9; log entry 1) -/
  params : Params
  /-- `SEQ` (R22) -/
  seq : BitVec 5
  /-- `FRAG` (R23) -/
  frag : BitVec 2
  /-- `OFFSET` (R24), transient -/
  offset : Addr
  /-- `PBUF` (R25), transient -/
  pbuf : List Byte
  /-- `BYTE_TOTAL` (R27) -/
  byteTotal : Word
  /-- `WINDOW_START` (R28) -/
  windowStart : Word
  /-- `TIMER_VALID` (R29) -/
  timerValid : Bool
  /-- `RATE_SNAPSHOT` (R30) -/
  rateSnapshot : Word
  /-- `SNAP` (R31), transient -/
  snap : List Word
  /-- `J` (R31), transient -/
  j : Byte
  /-- `STATUS.ERR` (R32), which is also the `err` output (R46) -/
  err : Bool
  /-- `STATUS.ERR_CAUSE` (R32) -/
  errCause : BitVec 4
  /-- the draws of the command being run, or of the last one (R43) -/
  env : Env
  /-- what the host does next, in order (R62, R215) -/
  pending : List HostAction
  /-- every channel transfer completed so far, oldest first (R41, R42; log entry 7) -/
  transfers : List Transfer
  /-- the model's own: how many free values have been drawn (log entries 5 and 14) -/
  freeCount : Nat
  deriving DecidableEq, Repr

/-- Why the machine stops. -/
inductive Fault where
  /-- A collaborator never completes a handshake that the block holds on: a stuck command, one with no final state
  (R244, I17). Raised by a step whose environment stalls a transfer the command makes. Safe: the hardware gives no
  final state either. -/
  | handshakeNeverCompletes
  deriving DecidableEq, Repr

/-- Why there is no meaning. -/
inductive Refusal where
  /-- Raised by an arm of exec that has no meaning yet; no arm has one left. Safe. -/
  | notModelled (mnemonic : String)
  deriving DecidableEq, Repr

/-- What a step or a meaning answers. -/
abbrev Outcome := Host.Outcome State Fault Refusal

/-- The block right after reset (spec/70_reset_and_hazards.md R230, R231), built with the default parameters, nothing
presented at its ports. The transient registers hold named values (log entry 6). -/
def State.reset : State where
  params := Params.default
  seq := 0
  frag := 0
  offset := 0
  pbuf := List.replicate 180 0
  byteTotal := 0
  windowStart := 0
  timerValid := false
  rateSnapshot := 0
  snap := []
  j := 0
  err := false
  errCause := 0
  env := Env.idle
  pending := []
  transfers := []
  freeCount := 0

end Sys2Proof.Machine
end

