-- ==== Sys2Proof/Machine/Flags.lean ====
section
/-! DEFINITION. The flags encoder of a frame, the STATUS word and the cause codes (spec/40_packet_framer.md R103,
spec/30_encoding.md R82, spec/10_state.md R36, spec/60_exceptions.md R200). The block has no condition codes (R33). -/

namespace Sys2Proof.Machine

/-- `FLAGS(ff, fi, s) = ff | (fi << 1) | (s << 3)` (R103). -/
def flagsByte (ff : BitVec 1) (fi : BitVec 2) (sq : BitVec 5) : Byte :=
  ff.setWidth 8 ||| (fi.setWidth 8 <<< 1) ||| (sq.setWidth 8 <<< 3)

/-- Bit 0 of a flags byte (R82). -/
def fragFlagOf (fl : Byte) : BitVec 1 := fl.extractLsb' 0 1

/-- Bits 2:1 of a flags byte (R82). -/
def fragIdxOf (fl : Byte) : BitVec 2 := fl.extractLsb' 1 2

/-- Bits 7:3 of a flags byte (R82). -/
def seqIdOf (fl : Byte) : BitVec 5 := fl.extractLsb' 3 5

/-- The cause code of a command error (R200). -/
def causeCode : CmdError → BitVec 4
  | .reservedOpcode => 1
  | .reservedField => 2
  | .frameTooLong => 3
  | .badRegIndex => 4

/-- The value of index 0x07: `(ERR_CAUSE << 4) | ERR` (R36). -/
def statusWord (s : State) : Word :=
  (s.errCause.setWidth 64 <<< 4) ||| (BitVec.ofBool s.err).setWidth 64

/-- The level on the `err` output (R46). -/
def errOut (s : State) : Bool := s.err

end Sys2Proof.Machine
end

