-- ==== Sys2Proof/Machine/Ops.lean ====
section
/-! DEFINITION. The named operations over the registers, the Blob Input Space and the channels, and taking a command
error (spec/00_scope.md R12, R13, spec/20_memory.md R50, spec/60_exceptions.md R201). -/

namespace Sys2Proof.Machine

/-! ### Registers: `x[NAME] <- v` (R12). The host writes none (R37). -/

def State.setSeq (v : BitVec 5) (s : State) : State := { s with seq := v }
def State.setFrag (v : BitVec 2) (s : State) : State := { s with frag := v }
def State.setOffset (v : Addr) (s : State) : State := { s with offset := v }
def State.setPbuf (v : List Byte) (s : State) : State := { s with pbuf := v }
def State.setByteTotal (v : Word) (s : State) : State := { s with byteTotal := v }
def State.setWindowStart (v : Word) (s : State) : State := { s with windowStart := v }
def State.setTimerValid (v : Bool) (s : State) : State := { s with timerValid := v }
def State.setRateSnapshot (v : Word) (s : State) : State := { s with rateSnapshot := v }
def State.setSnap (v : List Word) (s : State) : State := { s with snap := v }
def State.setJ (v : Byte) (s : State) : State := { s with j := v }
def State.setErr (v : Bool) (s : State) : State := { s with err := v }
def State.setErrCause (v : BitVec 4) (s : State) : State := { s with errCause := v }
def State.setEnv (v : Env) (s : State) : State := { s with env := v }
def State.setPending (v : List HostAction) (s : State) : State := { s with pending := v }
def State.setTransfers (v : List Transfer) (s : State) : State := { s with transfers := v }

/-! ### The Blob Input Space -/

/-- What an unlisted BIS address reads as (log entry 3). -/
def Memory.unlisted : Byte := 0

/-- The byte at an address (R50). -/
def Memory.read : Memory → Nat → Byte
  | [], _ => Memory.unlisted
  | (b, v) :: m, a => if b = a then v else Memory.read m a

/-- The host's write of one byte, keeping the canonical form. The block itself writes no memory (R52). -/
def Memory.write : Memory → Nat → Byte → Memory
  | [], a, v => if v = Memory.unlisted then [] else [(a, v)]
  | (b, u) :: m, a, v =>
    if a < b then (if v = Memory.unlisted then (b, u) :: m else (a, v) :: (b, u) :: m)
    else if a = b then (if v = Memory.unlisted then m else (a, v) :: m)
    else (b, u) :: Memory.write m a v

/-- The canonical form above a lower bound: addresses strictly rising and below 2^32, no entry equal to what an unlisted
address reads as. -/
def Memory.wfFrom : Nat → Memory → Bool
  | _, [] => true
  | lo, (a, v) :: m => decide (lo ≤ a) && decide (a < 2 ^ 32) && decide (v ≠ Memory.unlisted) && Memory.wfFrom (a + 1) m

/-- The canonical form of a memory. -/
def Memory.wf (m : Memory) : Bool := Memory.wfFrom 0 m

/-- The BIS byte at an address, in the environment of the command being run (R43). -/
def State.readByte (s : State) (a : Nat) : Byte := Memory.read s.env.blob a

/-- The addresses `addr, addr+1, …, addr+n-1` (R12). -/
def addrsFrom (addr : Addr) (n : Nat) : List Addr := (List.range n).map fun i => addr + BitVec.ofNat 32 i

/-- The value of `MemRead(addr, n)` (R12): the bytes in address order. -/
def memBytes (s : State) (addr : Addr) (n : Nat) : List Byte := (addrsFrom addr n).map fun a => s.readByte a.toNat

/-! ### Channel transfers -/

/-- Completed channel transfers, in order (R41). -/
def State.move (l : List Transfer) (s : State) : State := { s with transfers := s.transfers ++ l }

/-- `emit E` (R13). -/
def State.emit (e : Event) (s : State) : State := s.move [.event e]

/-- The response of a command that succeeds with value v (R84). -/
def State.respond (v : Word) (s : State) : State := s.emit (.resp 0 0 v)

/-- The event a transfer shows in the trace; a BIS read is none (R14). -/
def Transfer.event? : Transfer → Option Event
  | .blobRd _ => none
  | .event e => some e

/-- The address a transfer reads in the BIS. -/
def Transfer.read? : Transfer → Option Addr
  | .blobRd a => some a
  | .event _ => none

/-- The trace in a list of transfers (R14, R42). -/
def traceOf (l : List Transfer) : List Event := l.filterMap Transfer.event?

/-- The BIS reads in a list of transfers (R60). -/
def readsOf (l : List Transfer) : List Addr := l.filterMap Transfer.read?

/-- An identifier as a port of w bits carries it: its low w bits (R8, R40; log entry 12). -/
def onPort (w : Nat) (v : Word) : Word := v &&& BitVec.ofNat 64 (2 ^ w - 1)

/-- The clock, read once by a command that reads it (R43, R135). -/
def readNow (s : State) : Word := s.env.nowMs

/-! ### The payload buffer -/

/-- `PBUF[0..n-1] <- MemRead(addr, n); PBUF[n..M-1] <- 0x00` (R102, R150, D9), with the BIS reads it makes (R60). -/
def loadPbuf (addr : Addr) (n : Nat) (s : State) : State :=
  (s.setPbuf (memBytes s addr n ++ List.replicate (s.params.maxFramePayload - n) 0)).move
    ((addrsFrom addr n).map .blobRd)

/-! ### Transient registers at the end of a command (R34, I14; log entry 5) -/

/-- `OFFSET` has no architectural value any more: a free value. -/
def State.forgetOffset (s : State) : State :=
  { s with offset := Config.freeOffset s.freeCount, freeCount := s.freeCount + 1 }

/-- `PBUF` has no architectural value any more: M free bytes. -/
def State.forgetPbuf (s : State) : State :=
  { s with pbuf := (List.range s.params.maxFramePayload).map (Config.freePbufByte s.freeCount),
           freeCount := s.freeCount + 1 }

/-- `SNAP` and `J` have no architectural value any more: a free list of 0..255 descriptors and a free byte. -/
def State.forgetMux (s : State) : State :=
  { s with snap := ((Config.freeSnap s.freeCount).take Config.maxDests).map (onPort s.params.destIdW),
           j := Config.freeJ s.freeCount, freeCount := s.freeCount + 1 }

/-! ### Command errors -/

/-- `raise CmdError(c)` (R201): ERR is set, the first cause since reset is kept, the response carries c, and the command
ends here. There is no vector, no saved register and no mode (R208), and no return-from-error command: the block takes the
next command normally, and only reset clears STATUS (R209). -/
def raise (c : CmdError) (s : State) : State :=
  ((s.setErrCause (if s.err then s.errCause else causeCode c)).setErr true).emit (.resp 1 (causeCode c) 0)

/-! ### The command cycle around a command's rule (R170) -/

/-- Step 2 of R170: the word is accepted, and the environment's draws of this command stand at the ports. -/
def accept (e : Env) (rest : List HostAction) (s : State) : State := (s.setPending rest).setEnv e

/-- Whether the stalled handshake, if any, is one of the m transfers a command makes (R244). -/
def stalls (e : Env) (m : Nat) : Bool :=
  match e.stall with
  | none => false
  | some k => decide (k < m)

/-- A command that holds on a handshake that never completes is stuck: no final state (R244; log entry 4). -/
def settle (s : State) : Outcome → Outcome
  | .next t =>
    if stalls s.env (t.transfers.length - s.transfers.length) then .fault .handshakeNeverCompletes else .next t
  | .fault r => .fault r
  | .refused r => .refused r

/-- Reset (R230): every persistent register takes its reset value, the transient ones become unspecified (free values), no
channel transfer is made. The parameters (R247) and what stands outside the block are not touched. -/
def applyReset (s : State) : State :=
  ({ s with seq := 0, frag := 0, byteTotal := 0, windowStart := 0, timerValid := false, rateSnapshot := 0,
            err := false, errCause := 0 }).forgetOffset.forgetPbuf.forgetMux

/-- How many transfers of a command complete before `rst` cuts it: no more than asked for, none at or after a stalled one. -/
def cutAt (e : Env) (completed : Nat) : Nat :=
  match e.stall with
  | none => completed
  | some k => min completed k

/-- Reset during a command (R232): the transfers already completed stand, the `Resp` is not among them, then R230 applies. -/
def cutByReset (completed : Nat) (s : State) : Outcome → Outcome
  | .next t =>
    .next (applyReset (s.move (((t.transfers.drop s.transfers.length).dropLast).take (cutAt s.env completed))))
  | .fault r => .fault r
  | .refused r => .refused r

end Sys2Proof.Machine
end

