-- ==== Sys2Proof/Machine/Operands.lean ====
section
/-! DEFINITION. The operand forms of the commands (spec/30_encoding.md R71): a count or length, a frame length with its
value check, and a READREG index with the register map (spec/10_state.md R36). -/

namespace Sys2Proof.Machine

/-- A 32-bit count operand as a number (R71: zero-extended, no scaling). -/
def countOf (n : Addr) : Nat := n.toNat

/-- A 32-bit byte count in the width of `BYTE_TOTAL` (R71, R133). -/
def countWord (n : Addr) : Word := n.setWidth 64

/-- DISPATCH's value check: the length exceeds `MAX_FRAME_PAYLOAD` (R204). -/
def frameTooLong (s : State) (len : Byte) : Bool := decide (s.params.maxFramePayload < len.toNat)

/-- The value at a READREG index (R36); none for the unassigned indices 0x08..0xFF. -/
def regValue (s : State) (idx : Byte) : Option Word :=
  match idx.toNat with
  | 0 => some (s.seq.setWidth 64)
  | 1 => some (s.frag.setWidth 64)
  | 2 => some (BitVec.ofNat 64 s.params.maxFramePayload)
  | 3 => some s.byteTotal
  | 4 => some s.windowStart
  | 5 => some ((BitVec.ofBool s.timerValid).setWidth 64)
  | 6 => some s.rateSnapshot
  | 7 => some (statusWord s)
  | _ => none

end Sys2Proof.Machine
end

