-- ==== Sys2Proof/Machine/Framer.lean ====
section
/-! DEFINITION. The packet_framer: the procedure FRAMER and the FRAME command (spec/40_packet_framer.md R101 to R113). -/

namespace Sys2Proof.Machine

/-- `ceil(n / M)` (R11), exact (R107). -/
def fragmentCount (n M : Nat) : Nat := (n + M - 1) / M

/-- The frame record of a length and a flags byte whose payload is what `PBUF` holds now (R25, R80). -/
def frameOfPbuf (len : Nat) (fl : Byte) (s : State) : Frame := ⟨BitVec.ofNat 8 len, fl, s.pbuf⟩

/-- The fast path of R102, n < M: one frame, not fragmented. -/
def soleFrame (n : Nat) (sq : BitVec 5) (hook : Nat → Frame → State → State) (s : State) : State :=
  let s1 := loadPbuf 0 n s
  hook 0 (frameOfPbuf n (flagsByte 0 0 sq) s1) s1

/-- The body of R102's loop for frame i: fill PBUF from OFFSET, show the frame, then advance OFFSET and FRAG (R112). -/
def fragmentBody (n : Nat) (sq : BitVec 5) (hook : Nat → Frame → State → State) (i : Nat) (s : State) : State :=
  let len := min (n - s.offset.toNat) s.params.maxFramePayload
  let s1 := loadPbuf s.offset len s
  let s2 := hook i (frameOfPbuf len (flagsByte 1 s1.frag sq) s1) s1
  let s3 := s2.setOffset (s2.offset + BitVec.ofNat 32 len)
  s3.setFrag (s3.frag + 1)

/-- R102's loop: `count` more frames, the next one frame i. -/
def fragments (n : Nat) (sq : BitVec 5) (hook : Nat → Frame → State → State) : Nat → Nat → State → State
  | 0, _, s => s
  | count + 1, i, s => fragments n sq hook count (i + 1) (fragmentBody n sq hook i s)

/-- `FRAMER(n, hook)` (R102). `hook i f` is what the command does with frame i. -/
def framer (n : Addr) (hook : Nat → Frame → State → State) (s : State) : State :=
  let sq := s.seq
  let s0 := s.setFrag 0
  let s1 :=
    if countOf n < s.params.maxFramePayload then soleFrame (countOf n) sq hook s0
    else fragments (countOf n) sq hook (fragmentCount (countOf n) s.params.maxFramePayload) 0 (s0.setOffset 0)
  s1.setSeq (sq + 1)

/-- FRAME's hook: show the frame on `frame_out` (R101). -/
def showFrame (_ : Nat) (f : Frame) (s : State) : State := s.emit (.frameOut f)

/-- `FRAME n` (R101). -/
def execFrame (n : Addr) (s : State) : Outcome :=
  .next ((framer n showFrame s).respond 0).forgetOffset.forgetPbuf

end Sys2Proof.Machine
end

