-- ==== Sys2Proof/Machine/FrameDispatcher.lean ====
section
/-! DEFINITION. The frame_dispatcher: the procedure DISPATCHER and the DISPATCH command
(spec/42_frame_dispatcher.md R150 to R162). -/

namespace Sys2Proof.Machine

/-- The registry's answer to the k-th query of a command: at most `MAX_DESTS` destinations (R43, R243; log entries 2
and 12). -/
def answerOf (e : Env) (k : Nat) : List DestAnswer := (e.queries.getD k []).take Config.maxDests

/-- `snapshot(k)` (R43): the descriptors, as the port of `DEST_ID_W` bits carries them. -/
def snapshotOf (p : Params) (e : Env) (k : Nat) : List Word :=
  (answerOf e k).map fun d => onPort p.destIdW d.descriptor

/-- A route as the `dest_resolve` port carries it (R40, R159). -/
def routeOnPort (p : Params) (r : Route) : Route :=
  ⟨onPort p.handleW r.handle, onPort p.srcIdW r.sourceId, onPort p.routeIdW r.routingId⟩

/-- `route(k, j)` (R43). -/
def routeOf (p : Params) (e : Env) (k j : Nat) : Option Route :=
  match (answerOf e k)[j]? with
  | none => none
  | some d => d.route.map (routeOnPort p)

/-- The body of R153's loop at the cursor `J`: resolve, then send or skip. -/
def muxBody (k : Nat) (f : Frame) (s : State) : State :=
  let s1 := s.emit (.resolve s.j (s.snap.getD s.j.toNat 0))
  match routeOf s.params s.env k s.j.toNat with
  | none => s1
  | some r => s1.emit (.send s.j r f)

/-- R153's loop: `count` more destinations, the next one index i. -/
def muxLoop (k : Nat) (f : Frame) : Nat → Nat → State → State
  | 0, _, s => s
  | count + 1, i, s => muxLoop k f count (i + 1) (muxBody k f (s.setJ (BitVec.ofNat 8 i)))

/-- `DISPATCHER(f)` (R153), the k-th query of its command. -/
def dispatcher (k : Nat) (f : Frame) (s : State) : State :=
  let s1 := (s.emit .destQuery).setSnap (snapshotOf s.params s.env k)
  muxLoop k f s1.snap.length 0 s1

/-- The frame a DISPATCH hands over, loaded into `PBUF` (R150): its flags byte is opaque (R151). -/
def dispatchHostFrame (flags len : Byte) (s : State) : State :=
  let s1 := loadPbuf 0 len.toNat s
  dispatcher 0 (frameOfPbuf len.toNat flags s1) s1

/-- `DISPATCH flags, len` (R150). -/
def execDispatch (flags len : Byte) (s : State) : Outcome :=
  if frameTooLong s len then .next (raise .frameTooLong s)
  else .next ((dispatchHostFrame flags len s).respond 0).forgetPbuf.forgetMux

end Sys2Proof.Machine
end

