-- ==== Sys2Proof/Machine/Sampler.lean ====
section
/-! DEFINITION. The bandwidth_sampler: the procedure SAMPLER and the commands SAMPLE and SMP_START
(spec/41_bandwidth_sampler.md R130 to R140). -/

namespace Sys2Proof.Machine

/-- `elapsed` (R131, R135): 0 when the clock stands below the window's start. -/
def elapsedMs (now start : Word) : Nat := if start.toNat ≤ now.toNat then now.toNat - start.toNat else 0

/-- `floor(BYTE_TOTAL * 1000 / elapsed)`, the product exact (R132). -/
def rateOf (total : Word) (elapsed : Nat) : Word := BitVec.ofNat 64 (total.toNat * 1000 / elapsed)

/-- The end of a window (R131): publish the rate, keep it, and start the next window at now. -/
def closeWindow (now : Word) (rate : Word) (s : State) : State :=
  (((s.setRateSnapshot rate).emit (.rateOut rate)).setWindowStart now).setByteTotal 0

/-- `SAMPLER(c, now)` (R131). -/
def sampler (c : Addr) (now : Word) (s : State) : State :=
  if s.timerValid then
    let s1 := s.setByteTotal (s.byteTotal + countWord c)
    let elapsed := elapsedMs now s1.windowStart
    if Config.windowMs < elapsed then closeWindow now (rateOf s1.byteTotal elapsed) s1 else s1
  else s

/-- `SAMPLE n` (R130). -/
def execSample (n : Addr) (s : State) : Outcome := .next ((sampler n (readNow s) s).respond 0)

/-- `SMP_START` (R134). -/
def execSmpStart (s : State) : Outcome :=
  .next ((((s.setWindowStart (readNow s)).setByteTotal 0).setTimerValid true).respond 0)

end Sys2Proof.Machine
end

