-- ==== Sys2Proof/Machine/Control.lean ====
section
/-! DEFINITION. BLOB, NOP and READREG (spec/43_pipeline_and_control.md R172 to R176). There is no control transfer
(R177). -/

namespace Sys2Proof.Machine

/-- BLOB's hook (R172): show frame i, then dispatch it. Each frame makes one query (R154), so frame i makes query i. -/
def showAndDispatch (i : Nat) (f : Frame) (s : State) : State := dispatcher i f (s.emit (.frameOut f))

/-- `BLOB n` (R172): the sampler first, then the framer with dispatch of each frame. -/
def execBlob (n : Addr) (s : State) : Outcome :=
  .next ((framer n showAndDispatch (sampler n (readNow s) s)).respond 0).forgetOffset.forgetPbuf.forgetMux

/-- `NOP` (R175). -/
def execNop (s : State) : Outcome := .next (s.respond 0)

/-- `READREG idx` (R176): reading has no side effect. -/
def execReadreg (idx : Byte) (s : State) : Outcome :=
  match regValue s idx with
  | none => .next (raise .badRegIndex s)
  | some v => .next (s.respond v)

end Sys2Proof.Machine
end

