-- ==== Sys2Proof/Machine/Dispatch.lean ====
section
/-! DEFINITION. The meaning of each command, one arm for each constructor of Instr. -/

namespace Sys2Proof.Machine

def exec (i : Instr) (s : State) : Host.Outcome State Fault Refusal :=
  match i with
  | .nop => Sys2Proof.Machine.execNop s
  | .blob n => Sys2Proof.Machine.execBlob n s
  | .frame n => Sys2Proof.Machine.execFrame n s
  | .sample n => Sys2Proof.Machine.execSample n s
  | .dispatch flags len => Sys2Proof.Machine.execDispatch flags len s
  | .smpStart => Sys2Proof.Machine.execSmpStart s
  | .readreg idx => Sys2Proof.Machine.execReadreg idx s

end Sys2Proof.Machine
end

