-- ==== Sys2Proof/Machine/Step.lean ====
section
/-! DEFINITION. One step: the host's next action, run to completion (spec/43_pipeline_and_control.md R170, R171,
spec/70_reset_and_hazards.md R230, R232, R244). -/

namespace Sys2Proof.Machine

/-- Decode and execute (R170 steps 3 to 5): a word that is no command raises its command error (R201). -/
def runWord (w : Word) (s : State) : Host.Outcome State Fault Refusal :=
  match Sys2Proof.decode w with
  | .instr i => exec i s
  | .error c => .next (raise c s)

/-- The host's next action. With none the block stays idle and keeps its state (R218, R231). -/
def step (s : State) : Host.Outcome State Fault Refusal :=
  match s.pending with
  | [] => .next s
  | .command w e :: rest => settle (accept e rest s) (runWord w (accept e rest s))
  | .reset :: rest => .next (applyReset (s.setPending rest))
  | .resetDuring w e completed :: rest => cutByReset completed (accept e rest s) (runWord w (accept e rest s))

/-- The word the host presents next is w: the head of the queue keeps its draws, or a new command meets the environment
as it stands (log entry 10). -/
def State.withFetchWord (s : State) (nbits w : Nat) : State :=
  match s.pending with
  | .command _ e :: rest => s.setPending (.command (BitVec.ofNat 64 (w % 2 ^ nbits)) e :: rest)
  | other => s.setPending (.command (BitVec.ofNat 64 (w % 2 ^ nbits)) s.env :: other)

end Sys2Proof.Machine
end

