-- ==== Sys2Proof/Machine/Assembler.lean ====
section
/-! DEFINITION. The assembler syntax (spec/30_encoding.md R85): one command a line, to its word. Lines are lists of
characters; what R85 leaves open of white space and letter case is log entry 16. -/

namespace Sys2Proof.Machine

/-- A line's command with its operands as written, or the directive `.cmd`. -/
inductive AsmLine where
  | nop
  | blob (n : Nat)
  | frame (n : Nat)
  | sample (n : Nat)
  | dispatch (flags len : Nat)
  | smpStart
  | readreg (idx : Nat)
  | raw (w : Nat)
  deriving DecidableEq, Repr

/-- An operand that fits a field of w bits; a larger one is refused (R85). -/
def asmField (w v : Nat) : Option (BitVec w) := if v < 2 ^ w then some (BitVec.ofNat w v) else none

/-- The word of a line; none where the assembler refuses an operand (R85). `len <= MAX_FRAME_PAYLOAD` is the block's check. -/
def assemble : AsmLine → Option Word
  | .nop => some (encode .nop)
  | .blob n => (asmField 32 n).map fun x => encode (.blob x)
  | .frame n => (asmField 32 n).map fun x => encode (.frame x)
  | .sample n => (asmField 32 n).map fun x => encode (.sample x)
  | .dispatch fl len => (asmField 8 fl).bind fun x => (asmField 8 len).map fun y => encode (.dispatch x y)
  | .smpStart => some (encode .smpStart)
  | .readreg idx => (asmField 8 idx).map fun x => encode (.readreg x)
  | .raw w => asmField 64 w

/-- A piece of a line: a word of characters or a comma. -/
inductive AsmToken where
  | word (cs : List Char)
  | comma
  deriving DecidableEq, Repr

/-- Ends the word being read, if any. -/
def flushWord (cur : List Char) (rest : List AsmToken) : List AsmToken :=
  if cur.isEmpty then rest else .word cur :: rest

/-- The tokens of a line; `;` starts a comment to the end of the line (R85). -/
def tokens : List Char → List Char → List AsmToken
  | [], cur => flushWord cur []
  | c :: cs, cur =>
    if c = ';' then flushWord cur []
    else if c = ',' then flushWord cur (.comma :: tokens cs [])
    else if c = ' ' ∨ c = '\t' then flushWord cur (tokens cs [])
    else tokens cs (cur ++ [c])

/-- The value of a digit of a base, up to 16. -/
def digitOf (base : Nat) (c : Char) : Option Nat :=
  let v :=
    if 48 ≤ c.toNat ∧ c.toNat ≤ 57 then c.toNat - 48
    else if 97 ≤ c.toNat ∧ c.toNat ≤ 102 then c.toNat - 87
    else if 65 ≤ c.toNat ∧ c.toNat ≤ 70 then c.toNat - 55
    else 16
  if v < base then some v else none

/-- Digits after an accumulated value. -/
def digits (base : Nat) : List Char → Nat → Option Nat
  | [], acc => some acc
  | c :: cs, acc =>
    match digitOf base c with
    | none => none
    | some d => digits base cs (acc * base + d)

/-- A number, decimal or `0x` hexadecimal (R85). -/
def asmNumber : List Char → Option Nat
  | [] => none
  | '0' :: 'x' :: c :: cs => digits 16 (c :: cs) 0
  | c :: cs => digits 10 (c :: cs) 0

/-- The index names of READREG (R85). -/
def indexNames : List (List Char × Nat) :=
  [(['S', 'E', 'Q'], 0), (['F', 'R', 'A', 'G'], 1), (['M', 'A', 'X', 'P'], 2),
   (['B', 'Y', 'T', 'E', '_', 'T', 'O', 'T', 'A', 'L'], 3),
   (['W', 'I', 'N', 'D', 'O', 'W', '_', 'S', 'T', 'A', 'R', 'T'], 4),
   (['T', 'I', 'M', 'E', 'R', '_', 'V', 'A', 'L', 'I', 'D'], 5),
   (['R', 'A', 'T', 'E'], 6), (['S', 'T', 'A', 'T', 'U', 'S'], 7)]

/-- A READREG operand: an index name, or a number. -/
def asmIndex (cs : List Char) : Option Nat :=
  match indexNames.lookup cs with
  | some i => some i
  | none => asmNumber cs

/-- The command of a line's mnemonic and operands; none is a line R85 does not give. -/
def asmCommand (m : List Char) (ops : List AsmToken) : Option AsmLine :=
  match ops with
  | [] =>
    if m = ['N', 'O', 'P'] then some .nop
    else if m = ['S', 'M', 'P', '_', 'S', 'T', 'A', 'R', 'T'] then some .smpStart else none
  | [.word x] =>
    if m = ['B', 'L', 'O', 'B'] then (asmNumber x).map .blob
    else if m = ['F', 'R', 'A', 'M', 'E'] then (asmNumber x).map .frame
    else if m = ['S', 'A', 'M', 'P', 'L', 'E'] then (asmNumber x).map .sample
    else if m = ['R', 'E', 'A', 'D', 'R', 'E', 'G'] then (asmIndex x).map .readreg
    else if m = ['.', 'c', 'm', 'd'] then (asmNumber x).map .raw else none
  | [.word x, .comma, .word y] =>
    if m = ['D', 'I', 'S', 'P', 'A', 'T', 'C', 'H'] then
      (asmNumber x).bind fun fl => (asmNumber y).map fun len => .dispatch fl len
    else none
  | _ => none

/-- The word of a line of text: none where the assembler refuses it, and some none for a line with no command. -/
def assembleText (line : List Char) : Option (Option Word) :=
  match tokens line [] with
  | [] => some none
  | .word m :: ops => (asmCommand m ops).bind fun l => (assemble l).map some
  | .comma :: _ => none

end Sys2Proof.Machine
end

