-- ==== Sys2Proof/Machine/Bus.lean ====
section
/-! DEFINITION. What the ports carry, bit by bit: the frame bus of `frame_out` and `send` (spec/30_encoding.md R81) and
the 69-bit response of `cmd_resp` (R84). -/

namespace Sys2Proof.Machine

/-- A frame as bytes (R81): length, flags, then the payload. -/
def Frame.bytes (f : Frame) : List Byte := f.length :: f.flags :: f.payload

/-- A byte list as the number whose byte k stands at bits 8k+7 : 8k. -/
def busNumber : List Byte → Nat
  | [] => 0
  | b :: bs => b.toNat + 256 * busNumber bs

/-- The bits on the frame bus, as a number (R81). -/
def Frame.bus (f : Frame) : Nat := busNumber f.bytes

/-- The bits on `cmd_resp` (R84): status at 68, cause at 67:64, value at 63:0. -/
def respBus (status : BitVec 1) (cause : BitVec 4) (value : Word) : BitVec 69 := status ++ (cause ++ value)

end Sys2Proof.Machine
end

