-- ==== Sys2Proof/Safety.lean ====
section
/-! DEFINITION. The terms the claims use: legal frames and events, the invariants, what a command leaves alone, and the
closed forms the rules give for a command's frames and transfers. -/

namespace Sys2Proof.Machine

/-! ### Legal frames and events -/

/-- A frame record the block may emit (R80, R108): length at most M, M payload bytes, 0x00 from the length on. -/
def Frame.legal (M : Nat) (f : Frame) : Prop :=
  f.length.toNat ≤ M ∧ f.payload.length = M ∧ ∀ k, f.length.toNat ≤ k → k < M → f.payload[k]? = some 0

/-- An identifier fits a port of w bits (R40, R243). -/
def fits (w : Nat) (v : Word) : Prop := v.toNat < 2 ^ w

/-- A route of the widths R8 gives (R243). -/
def Route.legal (p : Params) (r : Route) : Prop :=
  fits p.handleW r.handle ∧ fits p.srcIdW r.sourceId ∧ fits p.routeIdW r.routingId

/-- An event the ports can show: legal frames (R80), identifiers of their widths (R40), and a response that is either OK
with cause 0 or an error with a cause 1 to 4 and value 0 (R84, R200, R201). -/
def Event.legal (p : Params) : Event → Prop
  | .frameOut f => f.legal p.maxFramePayload
  | .destQuery => True
  | .resolve _ d => fits p.destIdW d
  | .send _ r f => r.legal p ∧ f.legal p.maxFramePayload
  | .rateOut _ => True
  | .resp st c v => (st = 0 ∧ c = 0) ∨ (st = 1 ∧ 1 ≤ c.toNat ∧ c.toNat ≤ 4 ∧ v = 0)

/-- A transfer the ports can show. -/
def Transfer.legal (p : Params) : Transfer → Prop
  | .blobRd _ => True
  | .event e => e.legal p

/-- Every transfer so far is legal. -/
def TraceLegal (s : State) : Prop := ∀ x ∈ s.transfers, x.legal s.params

/-! ### The register invariant -/

/-- The BIS of a host action is in canonical form. -/
def HostAction.wf : HostAction → Bool
  | .command _ e => e.blob.wf
  | .reset => true
  | .resetDuring _ e _ => e.blob.wf

/-- What every state the block can be in satisfies. -/
structure BlockInv (s : State) : Prop where
  /-- PBUF has M bytes (R25) -/
  pbuf_length : s.pbuf.length = s.params.maxFramePayload
  /-- SNAP has 0..255 descriptors (R20) -/
  snap_length : s.snap.length ≤ 255
  /-- of `DEST_ID_W` bits each (R8) -/
  snap_width : ∀ d ∈ s.snap, fits s.params.destIdW d
  /-- cause codes 5..15 are never written (I11) -/
  cause_range : s.errCause.toNat ≤ 4
  /-- ERR is set exactly when a first cause is recorded (R32) -/
  err_cause : s.err = true ↔ s.errCause ≠ 0
  /-- while the timer has never been started the sampler holds its reset values (R27, R29, R131) -/
  sampler_stopped : s.timerValid = false → s.byteTotal = 0 ∧ s.windowStart = 0 ∧ s.rateSnapshot = 0
  /-- the BIS is in canonical form, now and for every command to come (the model's form, log entry 3) -/
  blob_wf : s.env.blob.wf = true ∧ ∀ a ∈ s.pending, a.wf = true

/-! ### The clock duty (R241) -/

/-- The clock values the host presents never decrease, from a lower bound on. -/
def clockMonotone : Nat → List HostAction → Prop
  | _, [] => True
  | lo, .command _ e :: rest => lo ≤ e.nowMs.toNat ∧ clockMonotone e.nowMs.toNat rest
  | lo, .reset :: rest => clockMonotone lo rest
  | lo, .resetDuring _ e _ :: rest => lo ≤ e.nowMs.toNat ∧ clockMonotone e.nowMs.toNat rest

/-- The host keeps R241 from `WINDOW_START` on. -/
def ClockKept (s : State) : Prop := clockMonotone s.windowStart.toNat s.pending

/-! ### Reset values -/

/-- Every persistent register holds its reset value (R20, R230). -/
def ResetRegisters (t : State) : Prop :=
  t.seq = 0 ∧ t.frag = 0 ∧ t.byteTotal = 0 ∧ t.windowStart = 0 ∧ t.timerValid = false ∧ t.rateSnapshot = 0 ∧
    t.err = false ∧ t.errCause = 0

/-! ### What a command leaves alone -/

/-- What stands outside the block and the build is unchanged: parameters, draws, pending actions, every BIS byte. -/
def SameOutside (s t : State) : Prop :=
  t.params = s.params ∧ t.env = s.env ∧ t.pending = s.pending ∧ ∀ a, t.readByte a = s.readByte a

/-- The framer's persistent registers are unchanged. -/
def SameFramer (s t : State) : Prop := t.seq = s.seq ∧ t.frag = s.frag

/-- The sampler's registers are unchanged. -/
def SameSampler (s t : State) : Prop :=
  t.byteTotal = s.byteTotal ∧ t.windowStart = s.windowStart ∧ t.timerValid = s.timerValid ∧
    t.rateSnapshot = s.rateSnapshot

/-- STATUS is unchanged. -/
def SameStatus (s t : State) : Prop := t.err = s.err ∧ t.errCause = s.errCause

/-- `OFFSET` is unchanged. -/
def SameOffset (s t : State) : Prop := t.offset = s.offset

/-- `SNAP` and `J` are unchanged. -/
def SameMux (s t : State) : Prop := t.snap = s.snap ∧ t.j = s.j

/-- A state with its transient registers and the model's own counter blanked out. -/
def State.eraseTransients (s : State) : State :=
  { s with offset := 0, pbuf := [], snap := [], j := 0, freeCount := 0 }

/-- Two states differ at most in transient registers (R34) and in the model's own counter. -/
def SameButTransients (s t : State) : Prop := s.eraseTransients = t.eraseTransients

/-! ### The rules' closed forms for one blob -/

/-- `F(n)` (R107): how many frames a blob of length n makes. -/
def frameCount (n M : Nat) : Nat := if n < M then 1 else fragmentCount n M

/-- The length of frame i (R104). -/
def frameLength (n M i : Nat) : Nat :=
  if n < M then n else if i + 1 < fragmentCount n M then M else n - (fragmentCount n M - 1) * M

/-- The flags of frame i of the blob with sequence value sq, as numbers (R103, the source's two forms). -/
def frameFlags (n M sq i : Nat) : Nat := if n < M then sq * 8 else 1 + i % 4 * 2 + sq * 8

/-- The payload of frame i: byte k is blob byte i*M + k below the length, 0x00 from there on (R54, R80). -/
def framePayload (e : Env) (n M i : Nat) : List Byte :=
  (List.range M).map fun k => if k < frameLength n M i then Memory.read e.blob (i * M + k) else 0

/-- Frame i of a blob of length n (R102, R104). -/
def blobFrame (p : Params) (e : Env) (sq : BitVec 5) (n i : Nat) : Frame :=
  ⟨BitVec.ofNat 8 (frameLength n p.maxFramePayload i),
   BitVec.ofNat 8 (frameFlags n p.maxFramePayload sq.toNat i),
   framePayload e n p.maxFramePayload i⟩

/-- The BIS reads for frame i, then the frame on `frame_out` (R60, R112). -/
def frameTransfers (p : Params) (e : Env) (sq : BitVec 5) (n i : Nat) : List Transfer :=
  ((List.range (frameLength n p.maxFramePayload i)).map fun k =>
      Transfer.blobRd (BitVec.ofNat 32 (i * p.maxFramePayload + k))) ++
    [.event (.frameOut (blobFrame p e sq n i))]

/-- The value FRAG is left with (R23, R105). -/
def fragAfter (n M : Nat) : BitVec 2 := if n < M then 0 else BitVec.ofNat 2 (fragmentCount n M)

/-- Whether an arrival at `now` closes the window (R131, R135); elapsed is 0 when the clock stands below
`WINDOW_START`, as subtraction on naturals gives. -/
def windowCloses (s : State) (now : Word) : Bool :=
  s.timerValid && decide (1000 < now.toNat - s.windowStart.toNat)

/-- The rate an arrival of c bytes publishes when it closes the window (R132). -/
def arrivalRate (s : State) (c : Addr) (now : Word) : Word :=
  BitVec.ofNat 64 ((s.byteTotal + c.setWidth 64).toNat * 1000 / (now.toNat - s.windowStart.toNat))

/-- What an arrival shows (R131): the rate if it closes the window, else nothing. -/
def arrivalTransfers (s : State) (c : Addr) : List Transfer :=
  if windowCloses s s.env.nowMs then [.event (.rateOut (arrivalRate s c s.env.nowMs))] else []

/-- What one destination of the k-th query shows (R153): its resolve, and a send if it resolves. -/
def destinationEvents (p : Params) (e : Env) (k : Nat) (f : Frame) (i : Nat) : List Event :=
  .resolve (BitVec.ofNat 8 i) ((snapshotOf p e k).getD i 0) ::
    match routeOf p e k i with
    | none => []
    | some r => [.send (BitVec.ofNat 8 i) r f]

/-- The events of one dispatch (R153): the query, then each destination of its snapshot in order. -/
def dispatchEvents (p : Params) (e : Env) (k : Nat) (f : Frame) : List Event :=
  .destQuery :: (List.range (snapshotOf p e k).length).flatMap (destinationEvents p e k f)

/-- The transfers of one dispatch. -/
def dispatchTransfers (p : Params) (e : Env) (k : Nat) (f : Frame) : List Transfer :=
  (dispatchEvents p e k f).map .event

/-- The frame of a DISPATCH command (R150): BIS bytes 0..len-1, then 0x00. -/
def hostFrame (p : Params) (e : Env) (flags len : Byte) : Frame :=
  ⟨len, flags, (List.range p.maxFramePayload).map fun k => if k < len.toNat then Memory.read e.blob k else 0⟩

/-- The frames shown on `frame_out` in a list of transfers. -/
def framesOf (l : List Transfer) : List Frame :=
  l.filterMap fun x =>
    match x with
    | .event (.frameOut f) => some f
    | _ => none

/-- The valid payload bytes of a frame (R80). -/
def Frame.valid (f : Frame) : List Byte := f.payload.take f.length.toNat

/-- How many BIS bytes a command reads (R60); none if it raises. -/
def inputLength (M : Nat) : Instr → Nat
  | .blob n => n.toNat
  | .frame n => n.toNat
  | .dispatch _ len => if M < len.toNat then 0 else len.toNat
  | .nop => 0
  | .sample _ => 0
  | .smpStart => 0
  | .readreg _ => 0

/-- The events of a dispatch: the query, the resolves and the sends. -/
def Event.ofDispatch : Event → Bool
  | .frameOut _ => false
  | .destQuery => true
  | .resolve _ _ => true
  | .send _ _ _ => true
  | .rateOut _ => false
  | .resp _ _ _ => false

/-- A resolve event. -/
def Event.isResolve : Event → Bool
  | .frameOut _ => false
  | .destQuery => false
  | .resolve _ _ => true
  | .send _ _ _ => false
  | .rateOut _ => false
  | .resp _ _ _ => false

/-- A send event. -/
def Event.isSend : Event → Bool
  | .frameOut _ => false
  | .destQuery => false
  | .resolve _ _ => false
  | .send _ _ _ => true
  | .rateOut _ => false
  | .resp _ _ _ => false

/-- A command that frames a blob. -/
def framesBlob : Instr → Bool
  | .blob _ => true
  | .frame _ => true
  | .nop => false
  | .sample _ => false
  | .dispatch _ _ => false
  | .smpStart => false
  | .readreg _ => false

/-- A command that reads the clock (R43). -/
def readsClock : Instr → Bool
  | .blob _ => true
  | .sample _ => true
  | .smpStart => true
  | .nop => false
  | .frame _ => false
  | .dispatch _ _ => false
  | .readreg _ => false

/-- The same state with another clock value at the port. -/
def State.withNow (now : Word) (s : State) : State := { s with env := { s.env with nowMs := now } }

/-- The same state with another BIS at the port. -/
def State.withBlob (m : Memory) (s : State) : State := { s with env := { s.env with blob := m } }

/-- The transfers of a step: what t has beyond s. -/
def newTransfers (s t : State) : List Transfer := t.transfers.drop s.transfers.length

/-- Runs commands one after the other, each by its rule. -/
def execAll : List Instr → State → Host.Outcome State Fault Refusal
  | [], s => .next s
  | i :: is, s =>
    match exec i s with
    | .next t => execAll is t
    | .fault r => .fault r
    | .refused r => .refused r

end Sys2Proof.Machine
end

