-- ==== Sys2Proof/WellFormed.lean ====
section
/-! DEFINITION. Which decoded commands pass the value checks of spec/30_encoding.md R75, item 3. -/

namespace Sys2Proof

/-- The word of this command passes every check of R75 in a block with `MAX_FRAME_PAYLOAD` = M: it executes by its
rule and raises no command error. An ill-formed command still decodes and still runs: it raises (log entry 18). -/
def Instr.wellFormed (M : Nat) : Instr → Bool
  | .nop => true
  | .blob _ => true
  | .frame _ => true
  | .sample _ => true
  | .dispatch _ len => decide (len.toNat ≤ M)
  | .smpStart => true
  | .readreg idx => decide (idx.toNat ≤ 7)

end Sys2Proof
end

