-- ==== Sys2Proof/Certificates/Slice0/Obligations.lean ====
section
/-! DEFINITION. The statements about the block, each from the numbered rules of spec/. -/

open Sys2Proof Sys2Proof.Machine

/-! ### The command word -/

/-- R87 and the encoding table of 95_test_vectors.md: these words are these commands. -/
def Obligations.ExampleWordsDecode : Prop :=
  decode 0x0000000000000000 = .instr .nop ∧
  decode 0x000001C200000001 = .instr (.blob 450) ∧
  decode 0x0000000000000002 = .instr (.frame 0) ∧
  decode 0x000001F400000003 = .instr (.sample 500) ∧
  decode 0x00000000005A1904 = .instr (.dispatch 0x19 90) ∧
  decode 0x0000000000000005 = .instr .smpStart ∧
  decode 0x0000000000000706 = .instr (.readreg 7)

/-- R70, R73, R74: the word of a command decodes to it, with every operand at every value. -/
def Obligations.DecodeOfEncodeIsTheCommand : Prop :=
  ∀ i : Instr, decode (encode i) = .instr i

/-- R70, R72, R76: a word that decodes to a command is that command's one word. -/
def Obligations.EncodeOfDecodeIsTheWord : Prop :=
  ∀ (w : Word) (i : Instr), decode w = .instr i → encode i = w

/-- R70, R85: the word of each command as the syntax table writes it. -/
def Obligations.EncodedWordIsTheTablesExpression : Prop :=
  encode .nop = 0x0000000000000000 ∧
  (∀ n : Addr, encode (.blob n) = n.setWidth 64 <<< 32 ||| 0x1) ∧
  (∀ n : Addr, encode (.frame n) = n.setWidth 64 <<< 32 ||| 0x2) ∧
  (∀ n : Addr, encode (.sample n) = n.setWidth 64 <<< 32 ||| 0x3) ∧
  (∀ flags len : Byte, encode (.dispatch flags len) =
    len.setWidth 64 <<< 16 ||| flags.setWidth 64 <<< 8 ||| 0x4) ∧
  encode .smpStart = 0x0000000000000005 ∧
  (∀ idx : Byte, encode (.readreg idx) = idx.setWidth 64 <<< 8 ||| 0x6)

/-- R202: an opcode in 0x7..0xF raises cause 1, whatever the other fields hold. -/
def Obligations.ReservedOpcodeRaisesCauseOne : Prop :=
  causeCode .reservedOpcode = 1 ∧
  ∀ (w : Word) (s : State), 7 ≤ w.toNat % 16 → runWord w s = .next (raise .reservedOpcode s)

/-- R203 with the table of R74: a defined opcode with a nonzero reserved or must-be-zero field raises cause 2. -/
def Obligations.NonzeroReservedFieldRaisesCauseTwo : Prop :=
  causeCode .reservedField = 2 ∧
  ∀ (w : Word) (s : State),
    let op := w.toNat % 16
    let rsv0 := w.toNat / 2 ^ 4 % 16
    let a := w.toNat / 2 ^ 8 % 256
    let b := w.toNat / 2 ^ 16 % 256
    let rsv1 := w.toNat / 2 ^ 24 % 256
    let n := w.toNat / 2 ^ 32
    op ≤ 6 →
    (rsv0 ≠ 0 ∨ rsv1 ≠ 0 ∨ (op ≠ 4 ∧ op ≠ 6 ∧ a ≠ 0) ∨ (op ≠ 4 ∧ b ≠ 0) ∨
      ((op = 0 ∨ op = 4 ∨ op = 5 ∨ op = 6) ∧ n ≠ 0)) →
    runWord w s = .next (raise .reservedField s)

/-- R75, items 1 and 2: a word with a defined opcode and every reserved and must-be-zero field zero is a command, and it
executes by that command's rule. -/
def Obligations.WordPassingTheFieldChecksExecutes : Prop :=
  ∀ w : Word,
    let op := w.toNat % 16
    let a := w.toNat / 2 ^ 8 % 256
    let b := w.toNat / 2 ^ 16 % 256
    let n := w.toNat / 2 ^ 32
    op ≤ 6 → w.toNat / 2 ^ 4 % 16 = 0 → w.toNat / 2 ^ 24 % 256 = 0 →
    (op ≠ 4 → op ≠ 6 → a = 0) → (op ≠ 4 → b = 0) → (op = 0 ∨ op = 4 ∨ op = 5 ∨ op = 6 → n = 0) →
    ∃ i : Instr, decode w = .instr i ∧ encode i = w ∧ ∀ s : State, runWord w s = exec i s

/-- R75, item 3, R204, R205: a command that passes the value checks answers OK and keeps STATUS; DISPATCH and READREG that
fail theirs raise cause 3 and cause 4, and no other command fails one. -/
def Obligations.ValueChecksDecideTheResponse : Prop :=
  ∀ (i : Instr) (s : State), ∃ t, exec i s = .next t ∧
    (i.wellFormed s.params.maxFramePayload = true →
      SameStatus s t ∧ ∃ v, t.transfers.getLast? = some (.event (.resp 0 0 v))) ∧
    (i.wellFormed s.params.maxFramePayload = false →
      (∃ flags len, i = .dispatch flags len ∧ t = raise .frameTooLong s) ∨
      (∃ idx, i = .readreg idx ∧ t = raise .badRegIndex s))

/-! ### Command errors -/

/-- R201: raising c sets ERR, keeps the first cause, answers Resp(1, c, 0) and does nothing else, and a command whose
response is an error did exactly that. -/
def Obligations.CommandErrorChangesOnlyStatus : Prop :=
  (∀ (c : CmdError) (s : State), raise c s =
    { s with
      err := true,
      errCause := if s.err then s.errCause else causeCode c,
      transfers := s.transfers ++ [.event (.resp 1 (causeCode c) 0)] }) ∧
  ∀ (w : Word) (s t : State) (c : BitVec 4) (v : Word),
    runWord w s = .next t → t.transfers.getLast? = some (.event (.resp 1 c v)) →
    ∃ e : CmdError, c = causeCode e ∧ v = 0 ∧ t = raise e s

/-- R32: an error sets ERR and records the first cause; no command clears or changes either, only reset clears them. -/
def Obligations.StatusIsStickyAndKeepsTheFirstCause : Prop :=
  (∀ (w : Word) (s t : State), runWord w s = .next t →
    (s.err = true → t.err = true ∧ t.errCause = s.errCause) ∧
    (∀ c v, t.transfers.getLast? = some (.event (.resp 1 c v)) →
      t.err = true ∧ (s.err = false → t.errCause = c)) ∧
    (∀ v, t.transfers.getLast? = some (.event (.resp 0 0 v)) → SameStatus s t)) ∧
  (∀ s t : State, step s = .next t → s.err = true →
    (t.err = true ∧ t.errCause = s.errCause) ∨
      ∃ rest, s.pending = .reset :: rest ∨ ∃ w e c, s.pending = .resetDuring w e c :: rest) ∧
  ∀ (s : State) (rest : List HostAction), s.pending = .reset :: rest →
    ∃ t, step s = .next t ∧ t.err = false ∧ t.errCause = 0

/-! ### The step -/

/-- R170, R171: when the word the host presents decodes to i and every handshake completes (premise R242), the step is
exec of i, in the state where that word's draws stand at the ports. -/
def Obligations.StepRunsTheDecodedCommand : Prop :=
  ∀ (s : State) (w : Word) (e : Env) (rest : List HostAction) (i : Instr),
    s.pending = .command w e :: rest → decode w = .instr i → e.handshakesComplete →
    step s = exec i { s with pending := rest, env := e }

/-- R170 step 3, R201: a word that is no command raises its error, in a next state. -/
def Obligations.StepRaisesTheErrorOfABadWord : Prop :=
  ∀ (s : State) (w : Word) (e : Env) (rest : List HostAction) (c : CmdError),
    s.pending = .command w e :: rest → decode w = .error c → e.handshakesComplete →
    step s = .next (raise c { s with pending := rest, env := e })

/-- R218, R231 (the queue of host actions is the model's form, log entry 2): with nothing presented the block stays idle
and keeps its state. -/
def Obligations.StepWithNothingPresentedKeepsTheState : Prop :=
  ∀ s : State, s.pending = [] → step s = .next s

/-- R244 (log entry 4): a command that needs the handshake that never completes is stuck, and any other completes. -/
def Obligations.StalledHandshakeIsAStuckCommand : Prop :=
  ∀ (s t : State) (w : Word) (e : Env) (rest : List HostAction) (k : Nat),
    s.pending = .command w e :: rest → e.stall = some k →
    runWord w { s with pending := rest, env := e } = .next t →
    (k < (newTransfers s t).length → step s = .fault .handshakeNeverCompletes) ∧
    ((newTransfers s t).length ≤ k → step s = .next t)

/-- R230: after a reset every persistent register holds its reset value, and nothing was transferred. -/
def Obligations.ResetClearsEveryPersistentRegister : Prop :=
  ∀ (s : State) (rest : List HostAction), s.pending = .reset :: rest →
    ∃ t, step s = .next t ∧ ResetRegisters t ∧ t.transfers = s.transfers ∧ t.params = s.params ∧ t.env = s.env ∧
      t.pending = rest

/-- R232, R230: a reset that cuts a command short leaves a prefix of its transfers, without its Resp, and the reset values.
The length of the cut is the model's reading (log entry 9), and so is what the reset leaves alone, the parameters and the
pending actions (log entry 15; R247 fixes MAX_FRAME_PAYLOAD). -/
def Obligations.ResetDuringACommandKeepsAPrefixWithoutResp : Prop :=
  ∀ (s u : State) (w : Word) (e : Env) (completed : Nat) (rest : List HostAction),
    s.pending = .resetDuring w e completed :: rest →
    runWord w { s with pending := rest, env := e } = .next u →
    ∃ t m, step s = .next t ∧ ResetRegisters t ∧
      t.transfers = s.transfers ++ ((newTransfers s u).dropLast).take m ∧
      (∀ x ∈ newTransfers s t, ∀ st c v, x ≠ .event (.resp st c v)) ∧
      (e.handshakesComplete → m = completed) ∧ m ≤ completed ∧
      t.params = s.params ∧ t.pending = rest

/-- R20, R230, R231 and the defaults of R8: the block right after reset. -/
def Obligations.RegistersAtReset : Prop :=
  ResetRegisters State.reset ∧ State.reset.pending = [] ∧ State.reset.transfers = [] ∧
  State.reset.params.maxFramePayload = 180 ∧ State.reset.params.destIdW = 16 ∧ State.reset.params.handleW = 16 ∧
  State.reset.params.srcIdW = 8 ∧ State.reset.params.routeIdW = 8

/-! ### Invariants -/

/-- The three invariants hold at reset (the transient registers, the draws there and the canonical form of the BIS are the
model's choice, log entries 2, 3 and 6). -/
def Obligations.ResetMeetsTheInvariants : Prop :=
  BlockInv State.reset ∧ TraceLegal State.reset ∧ ClockKept State.reset

/-- The register invariant (R20, R25, R27, R29, R32, I11): every step keeps it. Its clause that the BIS lists are canonical is
no rule of the spec: the canonical list is the model's form (log entry 3). -/
def Obligations.EveryStepKeepsTheRegisterInvariant : Prop :=
  ∀ s t : State, BlockInv s → step s = .next t → BlockInv t

/-- R80, R108, R84, R243: every frame, identifier and response that ever crosses a port is legal; every step keeps it. -/
def Obligations.EveryStepShowsOnlyLegalEvents : Prop :=
  ∀ s t : State, TraceLegal s → step s = .next t → TraceLegal t

/-- R247: the parameters cannot change while the block runs. -/
def Obligations.EveryStepKeepsTheParameters : Prop :=
  ∀ s t : State, step s = .next t → t.params = s.params

/-- R62, R232: what was transferred stands; a step only appends. -/
def Obligations.EveryStepOnlyAppendsTransfers : Prop :=
  ∀ s t : State, step s = .next t → ∃ l, t.transfers = s.transfers ++ l

/-- R241: a host that keeps its clock monotone keeps it at or above WINDOW_START, so elapsed is an exact difference. -/
def Obligations.EveryStepKeepsTheClockAboveTheWindow : Prop :=
  (∀ s t : State, ClockKept s → step s = .next t → ClockKept t) ∧
  ∀ (s : State) (w : Word) (e : Env) (rest : List HostAction),
    ClockKept s → s.pending = .command w e :: rest →
    elapsedMs e.nowMs s.windowStart + s.windowStart.toNat = e.nowMs.toNat

/-! ### Rules about every command -/

/-- R170, R171: every word runs to a next state, and its last transfer is its only response. -/
def Obligations.EveryWordEndsInItsOnlyResponse : Prop :=
  ∀ (w : Word) (s : State), ∃ t l st c v,
    runWord w s = .next t ∧ t.transfers = s.transfers ++ (l ++ [.event (.resp st c v)]) ∧
    ∀ x ∈ l, ∀ st c v, x ≠ .event (.resp st c v)

/-- R22, R23, R106: only FRAME and BLOB write SEQ and FRAG. -/
def Obligations.OnlyFramingWritesSeqAndFrag : Prop :=
  ∀ (i : Instr) (s t : State), exec i s = .next t → framesBlob i = false → SameFramer s t

/-- R29: only SMP_START sets TIMER_VALID, nothing but reset clears it, and while it is 0 nothing else changes the
sampler. -/
def Obligations.OnlySmpStartStartsTheTimer : Prop :=
  (∀ (w : Word) (s t : State), runWord w s = .next t →
    (s.timerValid = false → decode w ≠ .instr .smpStart → SameSampler s t) ∧
    (decode w = .instr .smpStart → t.timerValid = true)) ∧
  ∀ s t : State, step s = .next t → s.timerValid = true → t.timerValid = false →
    ∃ rest, s.pending = .reset :: rest ∨ ∃ w e c, s.pending = .resetDuring w e c :: rest

/-- R30, R45, R132: RATE_SNAPSHOT takes the rate a command publishes, and is kept by a command that publishes none. -/
def Obligations.RateSnapshotIsTheLastPublishedRate : Prop :=
  ∀ (i : Instr) (s t : State), exec i s = .next t →
    (∀ r, .event (.rateOut r) ∈ newTransfers s t → t.rateSnapshot = r) ∧
    ((∀ r, .event (.rateOut r) ∉ newTransfers s t) → t.rateSnapshot = s.rateSnapshot)

/-- R34: no command reads a transient register before it has written it, so none is observable. -/
def Obligations.TransientRegistersAreNotObservable : Prop :=
  ∀ s s' t : State, SameButTransients s s' → step s = .next t →
    ∃ t', step s' = .next t' ∧ SameButTransients t t'

/-- R43: SAMPLE, BLOB and SMP_START alone depend on the clock. -/
def Obligations.OnlyThreeCommandsReadTheClock : Prop :=
  ∀ (i : Instr) (s t : State) (now : Word), readsClock i = false → exec i s = .next t →
    ∃ t', exec i (s.withNow now) = .next t' ∧ SameButTransients t' (t.withNow now)

/-- R60: the BIS reads of each command, each address once, in increasing order, and none by a word that raises. -/
def Obligations.BisReadsOfEachCommand : Prop :=
  ∀ (w : Word) (s t : State), runWord w s = .next t →
    readsOf (newTransfers s t) =
      (List.range (match decode w with
        | .instr i => inputLength s.params.maxFramePayload i
        | .error _ => 0)).map (BitVec.ofNat 32)

/-- R50: bytes at or beyond a command's input length change nothing. -/
def Obligations.BytesPastTheInputDoNotMatter : Prop :=
  ∀ (i : Instr) (s t : State) (m : Memory),
    (∀ a, a < inputLength s.params.maxFramePayload i → Memory.read m a = s.readByte a) → exec i s = .next t →
    ∃ t', exec i (s.withBlob m) = .next t' ∧ SameButTransients t' (t.withBlob m)

/-- R16, R138: the sampler reads no register of the framer, and the framer none of the sampler's. -/
def Obligations.UnitsReadOnlyTheirOwnRegisters : Prop :=
  ∀ (i : Instr) (s s' t t' : State), s.params = s'.params → s.env = s'.env →
    exec i s = .next t → exec i s' = .next t' →
    (SameSampler s s' → SameSampler t t') ∧ (SameFramer s s' → SameFramer t t')

/-! ### NOP, READREG, SMP_START, SAMPLE -/

/-- R175: NOP responds and changes nothing; any other word of its opcode raises cause 2. -/
def Obligations.NopOnlyResponds : Prop :=
  (∀ s : State, exec .nop s = .next { s with transfers := s.transfers ++ [.event (.resp 0 0 0)] }) ∧
  encode .nop = 0x0000000000000000 ∧
  ∀ w : Word, w.toNat % 16 = 0 → w ≠ 0 → decode w = .error .reservedField

/-- R36, R205: READREG answers the register of its index and changes nothing; 0x08..0xFF raise cause 4; and its word runs
it. -/
def Obligations.ReadregAnswersTheRegisterMap : Prop :=
  ∀ s : State,
    let answers (idx : Byte) (v : Word) : Prop :=
      exec (.readreg idx) s = .next { s with transfers := s.transfers ++ [.event (.resp 0 0 v)] }
    answers 0x00 (s.seq.setWidth 64) ∧
    answers 0x01 (s.frag.setWidth 64) ∧
    answers 0x02 (BitVec.ofNat 64 s.params.maxFramePayload) ∧
    answers 0x03 s.byteTotal ∧
    answers 0x04 s.windowStart ∧
    answers 0x05 (if s.timerValid then 1 else 0) ∧
    answers 0x06 s.rateSnapshot ∧
    answers 0x07 (s.errCause.setWidth 64 <<< 4 ||| (if s.err then 1 else 0)) ∧
    (∀ idx : Byte, 8 ≤ idx.toNat → exec (.readreg idx) s = .next
      { s with
        err := true, errCause := if s.err then s.errCause else 4,
        transfers := s.transfers ++ [.event (.resp 1 4 0)] }) ∧
    ∀ idx : Byte, runWord (idx.setWidth 64 <<< 8 ||| 0x6) s = exec (.readreg idx) s

/-- R134: SMP_START restarts the window at now; any other word of its opcode raises cause 2. -/
def Obligations.SmpStartRestartsTheWindow : Prop :=
  (∀ s : State, exec .smpStart s = .next
    { s with
      windowStart := s.env.nowMs, byteTotal := 0, timerValid := true,
      transfers := s.transfers ++ [.event (.resp 0 0 0)] }) ∧
  encode .smpStart = 0x0000000000000005 ∧
  ∀ w : Word, w.toNat % 16 = 5 → w ≠ 5 → decode w = .error .reservedField

/-- R131, R132, R133, R135: what SAMPLE n does: nothing with the timer not started, else it adds n modulo 2^64, and when
more than 1000 ms have elapsed it publishes the exact floor of the rate and starts the next window. -/
def Obligations.SampleAccountsForAnArrival : Prop :=
  ∀ (n : Addr) (s : State),
    let total : Word := s.byteTotal + n.setWidth 64
    let elapsed : Nat := s.env.nowMs.toNat - s.windowStart.toNat
    (s.timerValid = false →
      exec (.sample n) s = .next { s with transfers := s.transfers ++ [.event (.resp 0 0 0)] }) ∧
    (s.timerValid = true → elapsed ≤ 1000 →
      exec (.sample n) s = .next
        { s with byteTotal := total, transfers := s.transfers ++ [.event (.resp 0 0 0)] }) ∧
    (s.timerValid = true → 1000 < elapsed →
      ∃ rate : Word, rate.toNat = total.toNat * 1000 / elapsed ∧
        exec (.sample n) s = .next
          { s with
            byteTotal := 0, windowStart := s.env.nowMs, rateSnapshot := rate,
            transfers := s.transfers ++ [.event (.rateOut rate), .event (.resp 0 0 0)] })

/-! ### FRAME -/

/-- R101 to R106, R112: FRAME n reads and shows the frames of the closed form, one after the other, then responds; SEQ
advances by one, FRAG is left at the count modulo 4, and nothing else changes but OFFSET and PBUF. -/
def Obligations.FrameShowsTheFramesOfTheBlob : Prop :=
  ∀ (n : Addr) (s : State), ∃ t, exec (.frame n) s = .next t ∧
    t.transfers = s.transfers ++
      ((List.range (frameCount n.toNat s.params.maxFramePayload)).flatMap
          (frameTransfers s.params s.env s.seq n.toNat) ++ [.event (.resp 0 0 0)]) ∧
    t.seq = s.seq + 1 ∧ t.frag = fragAfter n.toNat s.params.maxFramePayload ∧
    SameOutside s t ∧ SameSampler s t ∧ SameStatus s t ∧ SameMux s t

/-- R107: the frames of FRAME and of BLOB carry the whole blob, in order; their lengths add up to n; there are F(n). -/
def Obligations.FramesCarryExactlyTheBlob : Prop :=
  ∀ (i : Instr) (n : Addr) (s t : State), (i = .frame n ∨ i = .blob n) → exec i s = .next t →
    (framesOf (newTransfers s t)).flatMap Frame.valid = (List.range n.toNat).map s.readByte ∧
    ((framesOf (newTransfers s t)).map fun f => f.length.toNat).sum = n.toNat ∧
    (framesOf (newTransfers s t)).length =
      if n.toNat < s.params.maxFramePayload then 1
      else (n.toNat + s.params.maxFramePayload - 1) / s.params.maxFramePayload

/-- R108: every length is at most M, at least 1 in the fragmented path, and 0 only for the empty blob. -/
def Obligations.FrameLengthsStayInBounds : Prop :=
  ∀ (i : Instr) (n : Addr) (s t : State), (i = .frame n ∨ i = .blob n) → exec i s = .next t →
    ∀ f ∈ framesOf (newTransfers s t),
      f.length.toNat ≤ s.params.maxFramePayload ∧
      (s.params.maxFramePayload ≤ n.toNat → 1 ≤ f.length.toNat) ∧
      (f.length = 0 → n = 0)

/-- R109: the empty blob, framed by FRAME or by BLOB, is one frame of length 0, flags SEQ << 3 and an all-zero payload; no
byte is read, no error is raised, and SEQ increments. -/
def Obligations.EmptyBlobIsOneEmptyFrame : Prop :=
  ∀ (i : Instr) (s : State), (i = .frame 0 ∨ i = .blob 0) → ∃ t, exec i s = .next t ∧
    framesOf (newTransfers s t) = [⟨0, s.seq.setWidth 8 <<< 3, List.replicate s.params.maxFramePayload 0⟩] ∧
    readsOf (newTransfers s t) = [] ∧
    t.transfers.getLast? = some (.event (.resp 0 0 0)) ∧
    t.seq = s.seq + 1

/-- R110: a blob of exactly M bytes takes the fragmented path: one frame of length M with FLAGS(1, 0, s). -/
def Obligations.BlobOfExactlyOnePayloadIsFragmented : Prop :=
  ∀ (i : Instr) (n : Addr) (s : State), (i = .frame n ∨ i = .blob n) → n.toNat = s.params.maxFramePayload →
    ∃ t f, exec i s = .next t ∧ framesOf (newTransfers s t) = [f] ∧
      f.length.toNat = s.params.maxFramePayload ∧ f.flags = flagsByte 1 0 s.seq ∧ fragFlagOf f.flags = 1

/-- R111: frames k and k+4 of one blob carry the same flags, and the command completes with status OK. -/
def Obligations.FlagsRepeatEveryFourFragments : Prop :=
  ∀ (i : Instr) (n : Addr) (s : State), (i = .frame n ∨ i = .blob n) → ∃ t, exec i s = .next t ∧
    t.transfers.getLast? = some (.event (.resp 0 0 0)) ∧
    ∀ k f g, (framesOf (newTransfers s t))[k]? = some f → (framesOf (newTransfers s t))[k + 4]? = some g →
      f.flags = g.flags

/-- R113: with M = 180 a blob of 450 bytes makes three frames of lengths 180, 180, 90 with the flags the rule gives, each
carrying the pre-increment sequence value, and SEQ increments by one. -/
def Obligations.BlobOf450BytesMakesThreeFrames : Prop :=
  ∀ (i : Instr) (s : State), (i = .frame 450 ∨ i = .blob 450) → s.params.maxFramePayload = 180 →
    ∃ t, exec i s = .next t ∧
      ((framesOf (newTransfers s t)).map fun f => f.length.toNat) = [180, 180, 90] ∧
      ((framesOf (newTransfers s t)).map fun f => f.flags) =
        [0x01 ||| (0 <<< 1) ||| (s.seq.setWidth 8 <<< 3), 0x01 ||| (1 <<< 1) ||| (s.seq.setWidth 8 <<< 3),
         0x01 ||| (2 <<< 1) ||| (s.seq.setWidth 8 <<< 3)] ∧
      t.seq = s.seq + 1

/-- R106, R107: SEQ after k FRAME or BLOB commands is (s + k) mod 32, and s again after 32 of them. -/
def Obligations.SeqCountsFramedBlobsModulo32 : Prop :=
  ∀ (is : List Instr) (s : State), (∀ i ∈ is, framesBlob i = true) →
    ∃ t, execAll is s = .next t ∧ t.seq.toNat = (s.seq.toNat + is.length) % 32 ∧
      (is.length = 32 → t.seq = s.seq)

/-! ### DISPATCH -/

/-- R150, R153: DISPATCH of a length at most M reads its bytes, queries once, resolves each destination in order, sends to
each that resolves, and responds OK; no register changes but PBUF, SNAP and J. -/
def Obligations.DispatchSendsTheHostFrame : Prop :=
  ∀ (flags len : Byte) (s : State), len.toNat ≤ s.params.maxFramePayload →
    ∃ t, exec (.dispatch flags len) s = .next t ∧
      t.transfers = s.transfers ++
        (((List.range len.toNat).map fun k => .blobRd (BitVec.ofNat 32 k)) ++
          (dispatchTransfers s.params s.env 0 (hostFrame s.params s.env flags len) ++ [.event (.resp 0 0 0)])) ∧
      SameOutside s t ∧ SameFramer s t ∧ SameSampler s t ∧ SameStatus s t ∧ SameOffset s t

/-- R204: DISPATCH of a length above M raises cause 3, before any read or query; and its word runs it. -/
def Obligations.DispatchTooLongRaisesCauseThree : Prop :=
  ∀ (flags len : Byte) (s : State), s.params.maxFramePayload < len.toNat →
    runWord (len.setWidth 64 <<< 16 ||| flags.setWidth 64 <<< 8 ||| 0x4) s = exec (.dispatch flags len) s ∧
    exec (.dispatch flags len) s = .next
      { s with
        err := true, errCause := if s.err then s.errCause else 3,
        transfers := s.transfers ++ [.event (.resp 1 3 0)] }

/-- R156: N resolves and N - U sends for a snapshot of N descriptors of which U resolve to none, and status OK. -/
def Obligations.DispatchSendsOncePerResolvedDestination : Prop :=
  ∀ (flags len : Byte) (s : State), len.toNat ≤ s.params.maxFramePayload →
    let answers := (s.env.queries.getD 0 []).take 255
    let unresolved := (answers.filter fun d => d.route.isNone).length
    ∃ t, exec (.dispatch flags len) s = .next t ∧
      (traceOf (newTransfers s t)).countP Event.isResolve = answers.length ∧
      (traceOf (newTransfers s t)).countP Event.isSend = answers.length - unresolved ∧
      t.transfers.getLast? = some (.event (.resp 0 0 0))

/-- R155: an empty snapshot makes no resolve and no send, and is no error. -/
def Obligations.DispatchToNoDestinationOnlyQueries : Prop :=
  (∀ (k : Nat) (f : Frame) (s : State), s.env.queries.getD k [] = [] →
    newTransfers s (dispatcher k f s) = [.event .destQuery]) ∧
  ∀ (flags len : Byte) (s : State), len.toNat ≤ s.params.maxFramePayload → s.env.queries.getD 0 [] = [] →
    ∃ t, exec (.dispatch flags len) s = .next t ∧ traceOf (newTransfers s t) = [.destQuery, .resp 0 0 0]

/-- R160, R161: every send of one DISPATCHER call carries its frame, and the call reads and writes no persistent
register. -/
def Obligations.DispatcherKeepsTheFrameAndTheRegisters : Prop :=
  ∀ (k : Nat) (f : Frame) (s : State),
    (∀ j r g, .event (.send j r g) ∈ newTransfers s (dispatcher k f s) → g = f) ∧
    SameFramer s (dispatcher k f s) ∧ SameSampler s (dispatcher k f s) ∧ SameStatus s (dispatcher k f s) ∧
    SameOutside s (dispatcher k f s) ∧
    ∀ s' : State, s'.params = s.params → s'.env = s.env →
      newTransfers s' (dispatcher k f s') = newTransfers s (dispatcher k f s)

/-! ### BLOB -/

/-- R172, R173: BLOB n shows its rate if its arrival closes the window, then for each frame the reads, the frame and its
dispatch with a fresh query, then responds; SEQ, FRAG and the sampler change as R106, R105 and R131 give. -/
def Obligations.BlobSamplesFramesAndDispatches : Prop :=
  ∀ (n : Addr) (s : State), ∃ t, exec (.blob n) s = .next t ∧
    t.transfers = s.transfers ++
      (arrivalTransfers s n ++
        ((List.range (frameCount n.toNat s.params.maxFramePayload)).flatMap fun i =>
            frameTransfers s.params s.env s.seq n.toNat i ++
              dispatchTransfers s.params s.env i (blobFrame s.params s.env s.seq n.toNat i)) ++
        [.event (.resp 0 0 0)]) ∧
    t.seq = s.seq + 1 ∧ t.frag = fragAfter n.toNat s.params.maxFramePayload ∧
    t.timerValid = s.timerValid ∧
    t.byteTotal = (if windowCloses s s.env.nowMs then 0
      else if s.timerValid then s.byteTotal + n.setWidth 64 else s.byteTotal) ∧
    t.windowStart = (if windowCloses s s.env.nowMs then s.env.nowMs else s.windowStart) ∧
    t.rateSnapshot = (if windowCloses s s.env.nowMs then arrivalRate s n s.env.nowMs else s.rateSnapshot) ∧
    SameOutside s t ∧ SameStatus s t

/-- R174: BLOB is total and answers OK; on registers it is SAMPLE n then FRAME n at the same now, and its trace differs by
the dispatch events alone. -/
def Obligations.BlobIsSampleThenFrame : Prop :=
  ∀ (n : Addr) (s : State), ∃ t u v,
    exec (.blob n) s = .next t ∧ exec (.sample n) s = .next u ∧ exec (.frame n) u = .next v ∧
    SameFramer v t ∧ SameSampler v t ∧ SameStatus v t ∧ SameOutside v t ∧
    t.transfers.getLast? = some (.event (.resp 0 0 0)) ∧
    (traceOf (newTransfers s t)).filter (fun e => !e.ofDispatch) =
      (traceOf (newTransfers s u)).dropLast ++ traceOf (newTransfers u v)

/-! ### Formats, memory, assembler, build -/

/-- R82, R103: the sub-fields of a flags byte are what it was made of, so FLAGS is injective. -/
def Obligations.FlagsByteHoldsItsThreeSubfields : Prop :=
  ∀ (ff : BitVec 1) (fi : BitVec 2) (sq : BitVec 5),
    (flagsByte ff fi sq).toNat = ff.toNat + 2 * fi.toNat + 8 * sq.toNat ∧
    fragFlagOf (flagsByte ff fi sq) = ff ∧ fragIdxOf (flagsByte ff fi sq) = fi ∧ seqIdOf (flagsByte ff fi sq) = sq

/-- R81: byte 0 of a frame is its length, byte 1 its flags, byte 2+k its payload byte k, and byte k stands at bus bits
8k+7 : 8k. -/
def Obligations.FrameBusPlacesEachByte : Prop :=
  ∀ f : Frame,
    f.bytes[0]? = some f.length ∧ f.bytes[1]? = some f.flags ∧ (∀ k, f.bytes[2 + k]? = f.payload[k]?) ∧
    (∀ M, f.legal M → f.bytes.length = 2 + M) ∧
    ∀ k b, f.bytes[k]? = some b → f.bus / 2 ^ (8 * k) % 256 = b.toNat

/-- R84: the fields of the response bus. -/
def Obligations.ResponseBusPlacesEachField : Prop :=
  ∀ (st : BitVec 1) (c : BitVec 4) (v : Word),
    (respBus st c v).extractLsb' 68 1 = st ∧ (respBus st c v).extractLsb' 64 4 = c ∧
    (respBus st c v).extractLsb' 0 64 = v

/-- R50 (the canonical list is the model's form, log entry 3): a byte the host writes in the BIS is read back, every other
byte is as before, and the form is kept. -/
def Obligations.HostWriteOfTheBisReadsBack : Prop :=
  ∀ (m : Memory) (a : Nat) (v : Byte), Memory.wf m = true → a < 2 ^ 32 →
    Memory.wf (Memory.write m a v) = true ∧
    ∀ b, Memory.read (Memory.write m a v) b = if b = a then v else Memory.read m b

/-- R85: the word of each line, and the operands an assembler refuses. -/
def Obligations.AssemblerGivesTheWordOrRefuses : Prop :=
  (∀ n, assemble (.blob n) = if n ≤ 2 ^ 32 - 1 then some (BitVec.ofNat 64 (n * 2 ^ 32 + 1)) else none) ∧
  (∀ n, assemble (.frame n) = if n ≤ 2 ^ 32 - 1 then some (BitVec.ofNat 64 (n * 2 ^ 32 + 2)) else none) ∧
  (∀ n, assemble (.sample n) = if n ≤ 2 ^ 32 - 1 then some (BitVec.ofNat 64 (n * 2 ^ 32 + 3)) else none) ∧
  (∀ fl len, assemble (.dispatch fl len) =
    if fl ≤ 255 ∧ len ≤ 255 then some (BitVec.ofNat 64 (len * 2 ^ 16 + fl * 2 ^ 8 + 4)) else none) ∧
  (∀ idx, assemble (.readreg idx) = if idx ≤ 255 then some (BitVec.ofNat 64 (idx * 2 ^ 8 + 6)) else none) ∧
  assemble .nop = some 0 ∧ assemble .smpStart = some 5 ∧
  ∀ w : Word, assemble (.raw w.toNat) = some w

/-- R8, R9: exactly the parameters in their ranges can be built, and they are the ones asked for. -/
def Obligations.OnlyLegalParametersAreBuilt : Prop :=
  ∀ m d h s r : Nat,
    ((1 ≤ m ∧ m ≤ 255) ∧ (1 ≤ d ∧ d ≤ 64) ∧ (1 ≤ h ∧ h ≤ 64) ∧ (1 ≤ s ∧ s ≤ 64) ∧ (1 ≤ r ∧ r ≤ 64) ↔
      (Params.build m d h s r).isSome = true) ∧
    ∀ p, Params.build m d h s r = some p →
      p.maxFramePayload = m ∧ p.destIdW = d ∧ p.handleW = h ∧ p.srcIdW = s ∧ p.routeIdW = r
end

