-- ==== Sys2Proof/Laws/Encoding.lean ====
section
/-! SUPPORT. The command word's fields and the flags byte: packing and unpacking agree. -/

namespace Sys2Proof

theorem Fields.ofWord_toWord (f : Fields) : Fields.ofWord f.toWord = f := by
  obtain ⟨op, r0, a, b, r1, n⟩ := f
  simp only [Fields.ofWord, Fields.toWord, Fields.mk.injEq]
  refine ⟨?_, ?_, ?_, ?_, ?_, ?_⟩ <;>
    (apply BitVec.eq_of_getLsbD_eq; intro i hi
     simp only [BitVec.getLsbD_extractLsb', BitVec.getLsbD_append, hi, decide_true, Bool.true_and]
     split_ifs <;> first | omega | (congr 1; omega))

theorem Fields.toWord_ofWord (w : Word) : (Fields.ofWord w).toWord = w := by
  apply BitVec.eq_of_getLsbD_eq
  intro i hi
  simp only [Fields.ofWord, Fields.toWord, BitVec.getLsbD_append, BitVec.getLsbD_extractLsb']
  split_ifs <;> (rw [decide_eq_true (by omega), Bool.true_and]; congr 1; omega)

/-- The decoder reads the fields a word was packed from. -/
theorem decode_toWord (f : Fields) : decode f.toWord = f.decoded := by
  rw [decode, Fields.ofWord_toWord]

/-- The fields of a decoded command are those the encoder packs. -/
theorem Fields.eq_of_command {f : Fields} {i : Instr} (hc : f.command = some i) (hz : f.mustBeZero = true) :
    i.fields = f := by
  obtain ⟨op, r0, a, b, r1, n⟩ := f
  simp only [Fields.command] at hc
  simp only [Fields.mustBeZero, Fields.reservedZero, Bool.and_eq_true, beq_iff_eq] at hz
  obtain ⟨⟨h0, h1⟩, hz⟩ := hz
  have hop : ∀ k : Nat, k < 16 → op.toNat = k → op = BitVec.ofNat 4 k := by
    intro k hk h
    apply BitVec.eq_of_toNat_eq
    rw [BitVec.toNat_ofNat, h]; omega
  subst h0 h1
  split at hc <;> simp only [Option.some.injEq, reduceCtorEq] at hc <;> rename_i hk <;> subst hc <;>
    simp only [hk, Bool.and_eq_true, beq_iff_eq] at hz <;> have := hop _ (by omega) hk <;> subst this <;>
    simp [Instr.fields, hz]

/-- The word of six fields as a number (R70). -/
theorem Fields.toWord_toNat (f : Fields) : f.toWord.toNat =
    f.n.toNat * 2^32 + f.rsv1.toNat * 2^24 + f.b.toNat * 2^16 + f.a.toNat * 2^8 + f.rsv0.toNat * 2^4 + f.op.toNat := by
  obtain ⟨op, r0, a, b, r1, n⟩ := f
  have join : ∀ x y k : Nat, y < 2 ^ k → x <<< k ||| y = x * 2 ^ k + y := by
    intro x y k h
    rw [← Nat.shiftLeft_add_eq_or_of_lt h, Nat.shiftLeft_eq]
  simp only [Fields.toWord, BitVec.toNat_append]
  have h1 := op.isLt
  have h2 := r0.isLt
  have h3 := a.isLt
  have h4 := b.isLt
  have h5 := r1.isLt
  rw [join r0.toNat _ 4 (by omega), join a.toNat _ (4 + 4) (by omega), join b.toNat _ (8 + (4 + 4)) (by omega),
    join r1.toNat _ (8 + (8 + (4 + 4))) (by omega), join n.toNat _ _ (by omega)]
  omega

/-- The fields of a word as numbers (R70). -/
theorem Fields.ofWord_toNat (w : Word) :
   (Fields.ofWord w).op.toNat = w.toNat % 16 ∧ (Fields.ofWord w).rsv0.toNat = w.toNat / 2^4 % 16 ∧
   (Fields.ofWord w).a.toNat = w.toNat / 2^8 % 256 ∧ (Fields.ofWord w).b.toNat = w.toNat / 2^16 % 256 ∧
   (Fields.ofWord w).rsv1.toNat = w.toNat / 2^24 % 256 ∧ (Fields.ofWord w).n.toNat = w.toNat / 2^32 := by
  have := w.isLt
  simp only [Fields.ofWord, BitVec.extractLsb'_toNat, Nat.shiftRight_eq_div_pow]
  refine ⟨?_, ?_, ?_, ?_, ?_, ?_⟩ <;> norm_num
  omega

/-- Exactly the opcodes 7..15 name no command (R73). -/
theorem Fields.command_eq_none (f : Fields) : f.command = none ↔ 7 ≤ f.op.toNat := by
  have := f.op.isLt
  simp only [Fields.command]
  split <;> (try simp only [imp_false] at *) <;> constructor <;> intro hh <;> (try omega) <;> simp at hh ⊢

/-- The zero fields of each opcode (R74). -/
theorem Fields.mustBeZero_iff (f : Fields) (h : f.op.toNat ≤ 6) : f.mustBeZero = true ↔
   f.rsv0 = 0 ∧ f.rsv1 = 0 ∧ (f.op.toNat ≠ 4 → f.op.toNat ≠ 6 → f.a = 0) ∧ (f.op.toNat ≠ 4 → f.b = 0) ∧
   (f.op.toNat = 0 ∨ f.op.toNat = 4 ∨ f.op.toNat = 5 ∨ f.op.toNat = 6 → f.n = 0) := by
  simp only [Fields.mustBeZero, Fields.reservedZero]
  split <;> (try simp only [imp_false] at *) <;> (try omega)
  all_goals (rename_i hk; simp [hk, and_assoc])

end Sys2Proof

namespace Sys2Proof.Machine

theorem flagsByte_toNat (ff : BitVec 1) (fi : BitVec 2) (sq : BitVec 5) :
    (flagsByte ff fi sq).toNat = ff.toNat + fi.toNat * 2 + sq.toNat * 8 := by
  have h : ∀ (ff : BitVec 1) (fi : BitVec 2), ∀ sq : BitVec 5,
      (flagsByte ff fi sq).toNat = ff.toNat + fi.toNat * 2 + sq.toNat * 8 := by decide
  exact h ff fi sq

end Sys2Proof.Machine
end

