-- ==== Sys2Proof/Laws/State.lean ====
section
/-! SUPPORT. One lemma for each field of the state under each update, true by rfl. -/

namespace Sys2Proof.Machine

@[simp] theorem State.setSeq_params (v : BitVec 5) (s : State) : (State.setSeq v s).params = s.params := rfl
@[simp] theorem State.setSeq_seq (v : BitVec 5) (s : State) : (State.setSeq v s).seq = v := rfl
@[simp] theorem State.setSeq_frag (v : BitVec 5) (s : State) : (State.setSeq v s).frag = s.frag := rfl
@[simp] theorem State.setSeq_offset (v : BitVec 5) (s : State) : (State.setSeq v s).offset = s.offset := rfl
@[simp] theorem State.setSeq_pbuf (v : BitVec 5) (s : State) : (State.setSeq v s).pbuf = s.pbuf := rfl
@[simp] theorem State.setSeq_byteTotal (v : BitVec 5) (s : State) : (State.setSeq v s).byteTotal = s.byteTotal := rfl
@[simp] theorem State.setSeq_windowStart (v : BitVec 5) (s : State) : (State.setSeq v s).windowStart = s.windowStart := rfl
@[simp] theorem State.setSeq_timerValid (v : BitVec 5) (s : State) : (State.setSeq v s).timerValid = s.timerValid := rfl
@[simp] theorem State.setSeq_rateSnapshot (v : BitVec 5) (s : State) : (State.setSeq v s).rateSnapshot = s.rateSnapshot := rfl
@[simp] theorem State.setSeq_snap (v : BitVec 5) (s : State) : (State.setSeq v s).snap = s.snap := rfl
@[simp] theorem State.setSeq_j (v : BitVec 5) (s : State) : (State.setSeq v s).j = s.j := rfl
@[simp] theorem State.setSeq_err (v : BitVec 5) (s : State) : (State.setSeq v s).err = s.err := rfl
@[simp] theorem State.setSeq_errCause (v : BitVec 5) (s : State) : (State.setSeq v s).errCause = s.errCause := rfl
@[simp] theorem State.setSeq_env (v : BitVec 5) (s : State) : (State.setSeq v s).env = s.env := rfl
@[simp] theorem State.setSeq_pending (v : BitVec 5) (s : State) : (State.setSeq v s).pending = s.pending := rfl
@[simp] theorem State.setSeq_transfers (v : BitVec 5) (s : State) : (State.setSeq v s).transfers = s.transfers := rfl
@[simp] theorem State.setSeq_freeCount (v : BitVec 5) (s : State) : (State.setSeq v s).freeCount = s.freeCount := rfl

@[simp] theorem State.setFrag_params (v : BitVec 2) (s : State) : (State.setFrag v s).params = s.params := rfl
@[simp] theorem State.setFrag_seq (v : BitVec 2) (s : State) : (State.setFrag v s).seq = s.seq := rfl
@[simp] theorem State.setFrag_frag (v : BitVec 2) (s : State) : (State.setFrag v s).frag = v := rfl
@[simp] theorem State.setFrag_offset (v : BitVec 2) (s : State) : (State.setFrag v s).offset = s.offset := rfl
@[simp] theorem State.setFrag_pbuf (v : BitVec 2) (s : State) : (State.setFrag v s).pbuf = s.pbuf := rfl
@[simp] theorem State.setFrag_byteTotal (v : BitVec 2) (s : State) : (State.setFrag v s).byteTotal = s.byteTotal := rfl
@[simp] theorem State.setFrag_windowStart (v : BitVec 2) (s : State) : (State.setFrag v s).windowStart = s.windowStart := rfl
@[simp] theorem State.setFrag_timerValid (v : BitVec 2) (s : State) : (State.setFrag v s).timerValid = s.timerValid := rfl
@[simp] theorem State.setFrag_rateSnapshot (v : BitVec 2) (s : State) : (State.setFrag v s).rateSnapshot = s.rateSnapshot := rfl
@[simp] theorem State.setFrag_snap (v : BitVec 2) (s : State) : (State.setFrag v s).snap = s.snap := rfl
@[simp] theorem State.setFrag_j (v : BitVec 2) (s : State) : (State.setFrag v s).j = s.j := rfl
@[simp] theorem State.setFrag_err (v : BitVec 2) (s : State) : (State.setFrag v s).err = s.err := rfl
@[simp] theorem State.setFrag_errCause (v : BitVec 2) (s : State) : (State.setFrag v s).errCause = s.errCause := rfl
@[simp] theorem State.setFrag_env (v : BitVec 2) (s : State) : (State.setFrag v s).env = s.env := rfl
@[simp] theorem State.setFrag_pending (v : BitVec 2) (s : State) : (State.setFrag v s).pending = s.pending := rfl
@[simp] theorem State.setFrag_transfers (v : BitVec 2) (s : State) : (State.setFrag v s).transfers = s.transfers := rfl
@[simp] theorem State.setFrag_freeCount (v : BitVec 2) (s : State) : (State.setFrag v s).freeCount = s.freeCount := rfl

@[simp] theorem State.setOffset_params (v : Addr) (s : State) : (State.setOffset v s).params = s.params := rfl
@[simp] theorem State.setOffset_seq (v : Addr) (s : State) : (State.setOffset v s).seq = s.seq := rfl
@[simp] theorem State.setOffset_frag (v : Addr) (s : State) : (State.setOffset v s).frag = s.frag := rfl
@[simp] theorem State.setOffset_offset (v : Addr) (s : State) : (State.setOffset v s).offset = v := rfl
@[simp] theorem State.setOffset_pbuf (v : Addr) (s : State) : (State.setOffset v s).pbuf = s.pbuf := rfl
@[simp] theorem State.setOffset_byteTotal (v : Addr) (s : State) : (State.setOffset v s).byteTotal = s.byteTotal := rfl
@[simp] theorem State.setOffset_windowStart (v : Addr) (s : State) : (State.setOffset v s).windowStart = s.windowStart := rfl
@[simp] theorem State.setOffset_timerValid (v : Addr) (s : State) : (State.setOffset v s).timerValid = s.timerValid := rfl
@[simp] theorem State.setOffset_rateSnapshot (v : Addr) (s : State) : (State.setOffset v s).rateSnapshot = s.rateSnapshot := rfl
@[simp] theorem State.setOffset_snap (v : Addr) (s : State) : (State.setOffset v s).snap = s.snap := rfl
@[simp] theorem State.setOffset_j (v : Addr) (s : State) : (State.setOffset v s).j = s.j := rfl
@[simp] theorem State.setOffset_err (v : Addr) (s : State) : (State.setOffset v s).err = s.err := rfl
@[simp] theorem State.setOffset_errCause (v : Addr) (s : State) : (State.setOffset v s).errCause = s.errCause := rfl
@[simp] theorem State.setOffset_env (v : Addr) (s : State) : (State.setOffset v s).env = s.env := rfl
@[simp] theorem State.setOffset_pending (v : Addr) (s : State) : (State.setOffset v s).pending = s.pending := rfl
@[simp] theorem State.setOffset_transfers (v : Addr) (s : State) : (State.setOffset v s).transfers = s.transfers := rfl
@[simp] theorem State.setOffset_freeCount (v : Addr) (s : State) : (State.setOffset v s).freeCount = s.freeCount := rfl

@[simp] theorem State.setPbuf_params (v : List Byte) (s : State) : (State.setPbuf v s).params = s.params := rfl
@[simp] theorem State.setPbuf_seq (v : List Byte) (s : State) : (State.setPbuf v s).seq = s.seq := rfl
@[simp] theorem State.setPbuf_frag (v : List Byte) (s : State) : (State.setPbuf v s).frag = s.frag := rfl
@[simp] theorem State.setPbuf_offset (v : List Byte) (s : State) : (State.setPbuf v s).offset = s.offset := rfl
@[simp] theorem State.setPbuf_pbuf (v : List Byte) (s : State) : (State.setPbuf v s).pbuf = v := rfl
@[simp] theorem State.setPbuf_byteTotal (v : List Byte) (s : State) : (State.setPbuf v s).byteTotal = s.byteTotal := rfl
@[simp] theorem State.setPbuf_windowStart (v : List Byte) (s : State) : (State.setPbuf v s).windowStart = s.windowStart := rfl
@[simp] theorem State.setPbuf_timerValid (v : List Byte) (s : State) : (State.setPbuf v s).timerValid = s.timerValid := rfl
@[simp] theorem State.setPbuf_rateSnapshot (v : List Byte) (s : State) : (State.setPbuf v s).rateSnapshot = s.rateSnapshot := rfl
@[simp] theorem State.setPbuf_snap (v : List Byte) (s : State) : (State.setPbuf v s).snap = s.snap := rfl
@[simp] theorem State.setPbuf_j (v : List Byte) (s : State) : (State.setPbuf v s).j = s.j := rfl
@[simp] theorem State.setPbuf_err (v : List Byte) (s : State) : (State.setPbuf v s).err = s.err := rfl
@[simp] theorem State.setPbuf_errCause (v : List Byte) (s : State) : (State.setPbuf v s).errCause = s.errCause := rfl
@[simp] theorem State.setPbuf_env (v : List Byte) (s : State) : (State.setPbuf v s).env = s.env := rfl
@[simp] theorem State.setPbuf_pending (v : List Byte) (s : State) : (State.setPbuf v s).pending = s.pending := rfl
@[simp] theorem State.setPbuf_transfers (v : List Byte) (s : State) : (State.setPbuf v s).transfers = s.transfers := rfl
@[simp] theorem State.setPbuf_freeCount (v : List Byte) (s : State) : (State.setPbuf v s).freeCount = s.freeCount := rfl

@[simp] theorem State.setByteTotal_params (v : Word) (s : State) : (State.setByteTotal v s).params = s.params := rfl
@[simp] theorem State.setByteTotal_seq (v : Word) (s : State) : (State.setByteTotal v s).seq = s.seq := rfl
@[simp] theorem State.setByteTotal_frag (v : Word) (s : State) : (State.setByteTotal v s).frag = s.frag := rfl
@[simp] theorem State.setByteTotal_offset (v : Word) (s : State) : (State.setByteTotal v s).offset = s.offset := rfl
@[simp] theorem State.setByteTotal_pbuf (v : Word) (s : State) : (State.setByteTotal v s).pbuf = s.pbuf := rfl
@[simp] theorem State.setByteTotal_byteTotal (v : Word) (s : State) : (State.setByteTotal v s).byteTotal = v := rfl
@[simp] theorem State.setByteTotal_windowStart (v : Word) (s : State) : (State.setByteTotal v s).windowStart = s.windowStart := rfl
@[simp] theorem State.setByteTotal_timerValid (v : Word) (s : State) : (State.setByteTotal v s).timerValid = s.timerValid := rfl
@[simp] theorem State.setByteTotal_rateSnapshot (v : Word) (s : State) : (State.setByteTotal v s).rateSnapshot = s.rateSnapshot := rfl
@[simp] theorem State.setByteTotal_snap (v : Word) (s : State) : (State.setByteTotal v s).snap = s.snap := rfl
@[simp] theorem State.setByteTotal_j (v : Word) (s : State) : (State.setByteTotal v s).j = s.j := rfl
@[simp] theorem State.setByteTotal_err (v : Word) (s : State) : (State.setByteTotal v s).err = s.err := rfl
@[simp] theorem State.setByteTotal_errCause (v : Word) (s : State) : (State.setByteTotal v s).errCause = s.errCause := rfl
@[simp] theorem State.setByteTotal_env (v : Word) (s : State) : (State.setByteTotal v s).env = s.env := rfl
@[simp] theorem State.setByteTotal_pending (v : Word) (s : State) : (State.setByteTotal v s).pending = s.pending := rfl
@[simp] theorem State.setByteTotal_transfers (v : Word) (s : State) : (State.setByteTotal v s).transfers = s.transfers := rfl
@[simp] theorem State.setByteTotal_freeCount (v : Word) (s : State) : (State.setByteTotal v s).freeCount = s.freeCount := rfl

@[simp] theorem State.setWindowStart_params (v : Word) (s : State) : (State.setWindowStart v s).params = s.params := rfl
@[simp] theorem State.setWindowStart_seq (v : Word) (s : State) : (State.setWindowStart v s).seq = s.seq := rfl
@[simp] theorem State.setWindowStart_frag (v : Word) (s : State) : (State.setWindowStart v s).frag = s.frag := rfl
@[simp] theorem State.setWindowStart_offset (v : Word) (s : State) : (State.setWindowStart v s).offset = s.offset := rfl
@[simp] theorem State.setWindowStart_pbuf (v : Word) (s : State) : (State.setWindowStart v s).pbuf = s.pbuf := rfl
@[simp] theorem State.setWindowStart_byteTotal (v : Word) (s : State) : (State.setWindowStart v s).byteTotal = s.byteTotal := rfl
@[simp] theorem State.setWindowStart_windowStart (v : Word) (s : State) : (State.setWindowStart v s).windowStart = v := rfl
@[simp] theorem State.setWindowStart_timerValid (v : Word) (s : State) : (State.setWindowStart v s).timerValid = s.timerValid := rfl
@[simp] theorem State.setWindowStart_rateSnapshot (v : Word) (s : State) : (State.setWindowStart v s).rateSnapshot = s.rateSnapshot := rfl
@[simp] theorem State.setWindowStart_snap (v : Word) (s : State) : (State.setWindowStart v s).snap = s.snap := rfl
@[simp] theorem State.setWindowStart_j (v : Word) (s : State) : (State.setWindowStart v s).j = s.j := rfl
@[simp] theorem State.setWindowStart_err (v : Word) (s : State) : (State.setWindowStart v s).err = s.err := rfl
@[simp] theorem State.setWindowStart_errCause (v : Word) (s : State) : (State.setWindowStart v s).errCause = s.errCause := rfl
@[simp] theorem State.setWindowStart_env (v : Word) (s : State) : (State.setWindowStart v s).env = s.env := rfl
@[simp] theorem State.setWindowStart_pending (v : Word) (s : State) : (State.setWindowStart v s).pending = s.pending := rfl
@[simp] theorem State.setWindowStart_transfers (v : Word) (s : State) : (State.setWindowStart v s).transfers = s.transfers := rfl
@[simp] theorem State.setWindowStart_freeCount (v : Word) (s : State) : (State.setWindowStart v s).freeCount = s.freeCount := rfl

@[simp] theorem State.setTimerValid_params (v : Bool) (s : State) : (State.setTimerValid v s).params = s.params := rfl
@[simp] theorem State.setTimerValid_seq (v : Bool) (s : State) : (State.setTimerValid v s).seq = s.seq := rfl
@[simp] theorem State.setTimerValid_frag (v : Bool) (s : State) : (State.setTimerValid v s).frag = s.frag := rfl
@[simp] theorem State.setTimerValid_offset (v : Bool) (s : State) : (State.setTimerValid v s).offset = s.offset := rfl
@[simp] theorem State.setTimerValid_pbuf (v : Bool) (s : State) : (State.setTimerValid v s).pbuf = s.pbuf := rfl
@[simp] theorem State.setTimerValid_byteTotal (v : Bool) (s : State) : (State.setTimerValid v s).byteTotal = s.byteTotal := rfl
@[simp] theorem State.setTimerValid_windowStart (v : Bool) (s : State) : (State.setTimerValid v s).windowStart = s.windowStart := rfl
@[simp] theorem State.setTimerValid_timerValid (v : Bool) (s : State) : (State.setTimerValid v s).timerValid = v := rfl
@[simp] theorem State.setTimerValid_rateSnapshot (v : Bool) (s : State) : (State.setTimerValid v s).rateSnapshot = s.rateSnapshot := rfl
@[simp] theorem State.setTimerValid_snap (v : Bool) (s : State) : (State.setTimerValid v s).snap = s.snap := rfl
@[simp] theorem State.setTimerValid_j (v : Bool) (s : State) : (State.setTimerValid v s).j = s.j := rfl
@[simp] theorem State.setTimerValid_err (v : Bool) (s : State) : (State.setTimerValid v s).err = s.err := rfl
@[simp] theorem State.setTimerValid_errCause (v : Bool) (s : State) : (State.setTimerValid v s).errCause = s.errCause := rfl
@[simp] theorem State.setTimerValid_env (v : Bool) (s : State) : (State.setTimerValid v s).env = s.env := rfl
@[simp] theorem State.setTimerValid_pending (v : Bool) (s : State) : (State.setTimerValid v s).pending = s.pending := rfl
@[simp] theorem State.setTimerValid_transfers (v : Bool) (s : State) : (State.setTimerValid v s).transfers = s.transfers := rfl
@[simp] theorem State.setTimerValid_freeCount (v : Bool) (s : State) : (State.setTimerValid v s).freeCount = s.freeCount := rfl

@[simp] theorem State.setRateSnapshot_params (v : Word) (s : State) : (State.setRateSnapshot v s).params = s.params := rfl
@[simp] theorem State.setRateSnapshot_seq (v : Word) (s : State) : (State.setRateSnapshot v s).seq = s.seq := rfl
@[simp] theorem State.setRateSnapshot_frag (v : Word) (s : State) : (State.setRateSnapshot v s).frag = s.frag := rfl
@[simp] theorem State.setRateSnapshot_offset (v : Word) (s : State) : (State.setRateSnapshot v s).offset = s.offset := rfl
@[simp] theorem State.setRateSnapshot_pbuf (v : Word) (s : State) : (State.setRateSnapshot v s).pbuf = s.pbuf := rfl
@[simp] theorem State.setRateSnapshot_byteTotal (v : Word) (s : State) : (State.setRateSnapshot v s).byteTotal = s.byteTotal := rfl
@[simp] theorem State.setRateSnapshot_windowStart (v : Word) (s : State) : (State.setRateSnapshot v s).windowStart = s.windowStart := rfl
@[simp] theorem State.setRateSnapshot_timerValid (v : Word) (s : State) : (State.setRateSnapshot v s).timerValid = s.timerValid := rfl
@[simp] theorem State.setRateSnapshot_rateSnapshot (v : Word) (s : State) : (State.setRateSnapshot v s).rateSnapshot = v := rfl
@[simp] theorem State.setRateSnapshot_snap (v : Word) (s : State) : (State.setRateSnapshot v s).snap = s.snap := rfl
@[simp] theorem State.setRateSnapshot_j (v : Word) (s : State) : (State.setRateSnapshot v s).j = s.j := rfl
@[simp] theorem State.setRateSnapshot_err (v : Word) (s : State) : (State.setRateSnapshot v s).err = s.err := rfl
@[simp] theorem State.setRateSnapshot_errCause (v : Word) (s : State) : (State.setRateSnapshot v s).errCause = s.errCause := rfl
@[simp] theorem State.setRateSnapshot_env (v : Word) (s : State) : (State.setRateSnapshot v s).env = s.env := rfl
@[simp] theorem State.setRateSnapshot_pending (v : Word) (s : State) : (State.setRateSnapshot v s).pending = s.pending := rfl
@[simp] theorem State.setRateSnapshot_transfers (v : Word) (s : State) : (State.setRateSnapshot v s).transfers = s.transfers := rfl
@[simp] theorem State.setRateSnapshot_freeCount (v : Word) (s : State) : (State.setRateSnapshot v s).freeCount = s.freeCount := rfl

@[simp] theorem State.setSnap_params (v : List Word) (s : State) : (State.setSnap v s).params = s.params := rfl
@[simp] theorem State.setSnap_seq (v : List Word) (s : State) : (State.setSnap v s).seq = s.seq := rfl
@[simp] theorem State.setSnap_frag (v : List Word) (s : State) : (State.setSnap v s).frag = s.frag := rfl
@[simp] theorem State.setSnap_offset (v : List Word) (s : State) : (State.setSnap v s).offset = s.offset := rfl
@[simp] theorem State.setSnap_pbuf (v : List Word) (s : State) : (State.setSnap v s).pbuf = s.pbuf := rfl
@[simp] theorem State.setSnap_byteTotal (v : List Word) (s : State) : (State.setSnap v s).byteTotal = s.byteTotal := rfl
@[simp] theorem State.setSnap_windowStart (v : List Word) (s : State) : (State.setSnap v s).windowStart = s.windowStart := rfl
@[simp] theorem State.setSnap_timerValid (v : List Word) (s : State) : (State.setSnap v s).timerValid = s.timerValid := rfl
@[simp] theorem State.setSnap_rateSnapshot (v : List Word) (s : State) : (State.setSnap v s).rateSnapshot = s.rateSnapshot := rfl
@[simp] theorem State.setSnap_snap (v : List Word) (s : State) : (State.setSnap v s).snap = v := rfl
@[simp] theorem State.setSnap_j (v : List Word) (s : State) : (State.setSnap v s).j = s.j := rfl
@[simp] theorem State.setSnap_err (v : List Word) (s : State) : (State.setSnap v s).err = s.err := rfl
@[simp] theorem State.setSnap_errCause (v : List Word) (s : State) : (State.setSnap v s).errCause = s.errCause := rfl
@[simp] theorem State.setSnap_env (v : List Word) (s : State) : (State.setSnap v s).env = s.env := rfl
@[simp] theorem State.setSnap_pending (v : List Word) (s : State) : (State.setSnap v s).pending = s.pending := rfl
@[simp] theorem State.setSnap_transfers (v : List Word) (s : State) : (State.setSnap v s).transfers = s.transfers := rfl
@[simp] theorem State.setSnap_freeCount (v : List Word) (s : State) : (State.setSnap v s).freeCount = s.freeCount := rfl

@[simp] theorem State.setJ_params (v : Byte) (s : State) : (State.setJ v s).params = s.params := rfl
@[simp] theorem State.setJ_seq (v : Byte) (s : State) : (State.setJ v s).seq = s.seq := rfl
@[simp] theorem State.setJ_frag (v : Byte) (s : State) : (State.setJ v s).frag = s.frag := rfl
@[simp] theorem State.setJ_offset (v : Byte) (s : State) : (State.setJ v s).offset = s.offset := rfl
@[simp] theorem State.setJ_pbuf (v : Byte) (s : State) : (State.setJ v s).pbuf = s.pbuf := rfl
@[simp] theorem State.setJ_byteTotal (v : Byte) (s : State) : (State.setJ v s).byteTotal = s.byteTotal := rfl
@[simp] theorem State.setJ_windowStart (v : Byte) (s : State) : (State.setJ v s).windowStart = s.windowStart := rfl
@[simp] theorem State.setJ_timerValid (v : Byte) (s : State) : (State.setJ v s).timerValid = s.timerValid := rfl
@[simp] theorem State.setJ_rateSnapshot (v : Byte) (s : State) : (State.setJ v s).rateSnapshot = s.rateSnapshot := rfl
@[simp] theorem State.setJ_snap (v : Byte) (s : State) : (State.setJ v s).snap = s.snap := rfl
@[simp] theorem State.setJ_j (v : Byte) (s : State) : (State.setJ v s).j = v := rfl
@[simp] theorem State.setJ_err (v : Byte) (s : State) : (State.setJ v s).err = s.err := rfl
@[simp] theorem State.setJ_errCause (v : Byte) (s : State) : (State.setJ v s).errCause = s.errCause := rfl
@[simp] theorem State.setJ_env (v : Byte) (s : State) : (State.setJ v s).env = s.env := rfl
@[simp] theorem State.setJ_pending (v : Byte) (s : State) : (State.setJ v s).pending = s.pending := rfl
@[simp] theorem State.setJ_transfers (v : Byte) (s : State) : (State.setJ v s).transfers = s.transfers := rfl
@[simp] theorem State.setJ_freeCount (v : Byte) (s : State) : (State.setJ v s).freeCount = s.freeCount := rfl

@[simp] theorem State.setErr_params (v : Bool) (s : State) : (State.setErr v s).params = s.params := rfl
@[simp] theorem State.setErr_seq (v : Bool) (s : State) : (State.setErr v s).seq = s.seq := rfl
@[simp] theorem State.setErr_frag (v : Bool) (s : State) : (State.setErr v s).frag = s.frag := rfl
@[simp] theorem State.setErr_offset (v : Bool) (s : State) : (State.setErr v s).offset = s.offset := rfl
@[simp] theorem State.setErr_pbuf (v : Bool) (s : State) : (State.setErr v s).pbuf = s.pbuf := rfl
@[simp] theorem State.setErr_byteTotal (v : Bool) (s : State) : (State.setErr v s).byteTotal = s.byteTotal := rfl
@[simp] theorem State.setErr_windowStart (v : Bool) (s : State) : (State.setErr v s).windowStart = s.windowStart := rfl
@[simp] theorem State.setErr_timerValid (v : Bool) (s : State) : (State.setErr v s).timerValid = s.timerValid := rfl
@[simp] theorem State.setErr_rateSnapshot (v : Bool) (s : State) : (State.setErr v s).rateSnapshot = s.rateSnapshot := rfl
@[simp] theorem State.setErr_snap (v : Bool) (s : State) : (State.setErr v s).snap = s.snap := rfl
@[simp] theorem State.setErr_j (v : Bool) (s : State) : (State.setErr v s).j = s.j := rfl
@[simp] theorem State.setErr_err (v : Bool) (s : State) : (State.setErr v s).err = v := rfl
@[simp] theorem State.setErr_errCause (v : Bool) (s : State) : (State.setErr v s).errCause = s.errCause := rfl
@[simp] theorem State.setErr_env (v : Bool) (s : State) : (State.setErr v s).env = s.env := rfl
@[simp] theorem State.setErr_pending (v : Bool) (s : State) : (State.setErr v s).pending = s.pending := rfl
@[simp] theorem State.setErr_transfers (v : Bool) (s : State) : (State.setErr v s).transfers = s.transfers := rfl
@[simp] theorem State.setErr_freeCount (v : Bool) (s : State) : (State.setErr v s).freeCount = s.freeCount := rfl

@[simp] theorem State.setErrCause_params (v : BitVec 4) (s : State) : (State.setErrCause v s).params = s.params := rfl
@[simp] theorem State.setErrCause_seq (v : BitVec 4) (s : State) : (State.setErrCause v s).seq = s.seq := rfl
@[simp] theorem State.setErrCause_frag (v : BitVec 4) (s : State) : (State.setErrCause v s).frag = s.frag := rfl
@[simp] theorem State.setErrCause_offset (v : BitVec 4) (s : State) : (State.setErrCause v s).offset = s.offset := rfl
@[simp] theorem State.setErrCause_pbuf (v : BitVec 4) (s : State) : (State.setErrCause v s).pbuf = s.pbuf := rfl
@[simp] theorem State.setErrCause_byteTotal (v : BitVec 4) (s : State) : (State.setErrCause v s).byteTotal = s.byteTotal := rfl
@[simp] theorem State.setErrCause_windowStart (v : BitVec 4) (s : State) : (State.setErrCause v s).windowStart = s.windowStart := rfl
@[simp] theorem State.setErrCause_timerValid (v : BitVec 4) (s : State) : (State.setErrCause v s).timerValid = s.timerValid := rfl
@[simp] theorem State.setErrCause_rateSnapshot (v : BitVec 4) (s : State) : (State.setErrCause v s).rateSnapshot = s.rateSnapshot := rfl
@[simp] theorem State.setErrCause_snap (v : BitVec 4) (s : State) : (State.setErrCause v s).snap = s.snap := rfl
@[simp] theorem State.setErrCause_j (v : BitVec 4) (s : State) : (State.setErrCause v s).j = s.j := rfl
@[simp] theorem State.setErrCause_err (v : BitVec 4) (s : State) : (State.setErrCause v s).err = s.err := rfl
@[simp] theorem State.setErrCause_errCause (v : BitVec 4) (s : State) : (State.setErrCause v s).errCause = v := rfl
@[simp] theorem State.setErrCause_env (v : BitVec 4) (s : State) : (State.setErrCause v s).env = s.env := rfl
@[simp] theorem State.setErrCause_pending (v : BitVec 4) (s : State) : (State.setErrCause v s).pending = s.pending := rfl
@[simp] theorem State.setErrCause_transfers (v : BitVec 4) (s : State) : (State.setErrCause v s).transfers = s.transfers := rfl
@[simp] theorem State.setErrCause_freeCount (v : BitVec 4) (s : State) : (State.setErrCause v s).freeCount = s.freeCount := rfl

@[simp] theorem State.setEnv_params (v : Env) (s : State) : (State.setEnv v s).params = s.params := rfl
@[simp] theorem State.setEnv_seq (v : Env) (s : State) : (State.setEnv v s).seq = s.seq := rfl
@[simp] theorem State.setEnv_frag (v : Env) (s : State) : (State.setEnv v s).frag = s.frag := rfl
@[simp] theorem State.setEnv_offset (v : Env) (s : State) : (State.setEnv v s).offset = s.offset := rfl
@[simp] theorem State.setEnv_pbuf (v : Env) (s : State) : (State.setEnv v s).pbuf = s.pbuf := rfl
@[simp] theorem State.setEnv_byteTotal (v : Env) (s : State) : (State.setEnv v s).byteTotal = s.byteTotal := rfl
@[simp] theorem State.setEnv_windowStart (v : Env) (s : State) : (State.setEnv v s).windowStart = s.windowStart := rfl
@[simp] theorem State.setEnv_timerValid (v : Env) (s : State) : (State.setEnv v s).timerValid = s.timerValid := rfl
@[simp] theorem State.setEnv_rateSnapshot (v : Env) (s : State) : (State.setEnv v s).rateSnapshot = s.rateSnapshot := rfl
@[simp] theorem State.setEnv_snap (v : Env) (s : State) : (State.setEnv v s).snap = s.snap := rfl
@[simp] theorem State.setEnv_j (v : Env) (s : State) : (State.setEnv v s).j = s.j := rfl
@[simp] theorem State.setEnv_err (v : Env) (s : State) : (State.setEnv v s).err = s.err := rfl
@[simp] theorem State.setEnv_errCause (v : Env) (s : State) : (State.setEnv v s).errCause = s.errCause := rfl
@[simp] theorem State.setEnv_env (v : Env) (s : State) : (State.setEnv v s).env = v := rfl
@[simp] theorem State.setEnv_pending (v : Env) (s : State) : (State.setEnv v s).pending = s.pending := rfl
@[simp] theorem State.setEnv_transfers (v : Env) (s : State) : (State.setEnv v s).transfers = s.transfers := rfl
@[simp] theorem State.setEnv_freeCount (v : Env) (s : State) : (State.setEnv v s).freeCount = s.freeCount := rfl

@[simp] theorem State.setPending_params (v : List HostAction) (s : State) : (State.setPending v s).params = s.params := rfl
@[simp] theorem State.setPending_seq (v : List HostAction) (s : State) : (State.setPending v s).seq = s.seq := rfl
@[simp] theorem State.setPending_frag (v : List HostAction) (s : State) : (State.setPending v s).frag = s.frag := rfl
@[simp] theorem State.setPending_offset (v : List HostAction) (s : State) : (State.setPending v s).offset = s.offset := rfl
@[simp] theorem State.setPending_pbuf (v : List HostAction) (s : State) : (State.setPending v s).pbuf = s.pbuf := rfl
@[simp] theorem State.setPending_byteTotal (v : List HostAction) (s : State) : (State.setPending v s).byteTotal = s.byteTotal := rfl
@[simp] theorem State.setPending_windowStart (v : List HostAction) (s : State) : (State.setPending v s).windowStart = s.windowStart := rfl
@[simp] theorem State.setPending_timerValid (v : List HostAction) (s : State) : (State.setPending v s).timerValid = s.timerValid := rfl
@[simp] theorem State.setPending_rateSnapshot (v : List HostAction) (s : State) : (State.setPending v s).rateSnapshot = s.rateSnapshot := rfl
@[simp] theorem State.setPending_snap (v : List HostAction) (s : State) : (State.setPending v s).snap = s.snap := rfl
@[simp] theorem State.setPending_j (v : List HostAction) (s : State) : (State.setPending v s).j = s.j := rfl
@[simp] theorem State.setPending_err (v : List HostAction) (s : State) : (State.setPending v s).err = s.err := rfl
@[simp] theorem State.setPending_errCause (v : List HostAction) (s : State) : (State.setPending v s).errCause = s.errCause := rfl
@[simp] theorem State.setPending_env (v : List HostAction) (s : State) : (State.setPending v s).env = s.env := rfl
@[simp] theorem State.setPending_pending (v : List HostAction) (s : State) : (State.setPending v s).pending = v := rfl
@[simp] theorem State.setPending_transfers (v : List HostAction) (s : State) : (State.setPending v s).transfers = s.transfers := rfl
@[simp] theorem State.setPending_freeCount (v : List HostAction) (s : State) : (State.setPending v s).freeCount = s.freeCount := rfl

@[simp] theorem State.setTransfers_params (v : List Transfer) (s : State) : (State.setTransfers v s).params = s.params := rfl
@[simp] theorem State.setTransfers_seq (v : List Transfer) (s : State) : (State.setTransfers v s).seq = s.seq := rfl
@[simp] theorem State.setTransfers_frag (v : List Transfer) (s : State) : (State.setTransfers v s).frag = s.frag := rfl
@[simp] theorem State.setTransfers_offset (v : List Transfer) (s : State) : (State.setTransfers v s).offset = s.offset := rfl
@[simp] theorem State.setTransfers_pbuf (v : List Transfer) (s : State) : (State.setTransfers v s).pbuf = s.pbuf := rfl
@[simp] theorem State.setTransfers_byteTotal (v : List Transfer) (s : State) : (State.setTransfers v s).byteTotal = s.byteTotal := rfl
@[simp] theorem State.setTransfers_windowStart (v : List Transfer) (s : State) : (State.setTransfers v s).windowStart = s.windowStart := rfl
@[simp] theorem State.setTransfers_timerValid (v : List Transfer) (s : State) : (State.setTransfers v s).timerValid = s.timerValid := rfl
@[simp] theorem State.setTransfers_rateSnapshot (v : List Transfer) (s : State) : (State.setTransfers v s).rateSnapshot = s.rateSnapshot := rfl
@[simp] theorem State.setTransfers_snap (v : List Transfer) (s : State) : (State.setTransfers v s).snap = s.snap := rfl
@[simp] theorem State.setTransfers_j (v : List Transfer) (s : State) : (State.setTransfers v s).j = s.j := rfl
@[simp] theorem State.setTransfers_err (v : List Transfer) (s : State) : (State.setTransfers v s).err = s.err := rfl
@[simp] theorem State.setTransfers_errCause (v : List Transfer) (s : State) : (State.setTransfers v s).errCause = s.errCause := rfl
@[simp] theorem State.setTransfers_env (v : List Transfer) (s : State) : (State.setTransfers v s).env = s.env := rfl
@[simp] theorem State.setTransfers_pending (v : List Transfer) (s : State) : (State.setTransfers v s).pending = s.pending := rfl
@[simp] theorem State.setTransfers_transfers (v : List Transfer) (s : State) : (State.setTransfers v s).transfers = v := rfl
@[simp] theorem State.setTransfers_freeCount (v : List Transfer) (s : State) : (State.setTransfers v s).freeCount = s.freeCount := rfl

@[simp] theorem State.move_params (l : List Transfer) (s : State) : (State.move l s).params = s.params := rfl
@[simp] theorem State.move_seq (l : List Transfer) (s : State) : (State.move l s).seq = s.seq := rfl
@[simp] theorem State.move_frag (l : List Transfer) (s : State) : (State.move l s).frag = s.frag := rfl
@[simp] theorem State.move_offset (l : List Transfer) (s : State) : (State.move l s).offset = s.offset := rfl
@[simp] theorem State.move_pbuf (l : List Transfer) (s : State) : (State.move l s).pbuf = s.pbuf := rfl
@[simp] theorem State.move_byteTotal (l : List Transfer) (s : State) : (State.move l s).byteTotal = s.byteTotal := rfl
@[simp] theorem State.move_windowStart (l : List Transfer) (s : State) : (State.move l s).windowStart = s.windowStart := rfl
@[simp] theorem State.move_timerValid (l : List Transfer) (s : State) : (State.move l s).timerValid = s.timerValid := rfl
@[simp] theorem State.move_rateSnapshot (l : List Transfer) (s : State) : (State.move l s).rateSnapshot = s.rateSnapshot := rfl
@[simp] theorem State.move_snap (l : List Transfer) (s : State) : (State.move l s).snap = s.snap := rfl
@[simp] theorem State.move_j (l : List Transfer) (s : State) : (State.move l s).j = s.j := rfl
@[simp] theorem State.move_err (l : List Transfer) (s : State) : (State.move l s).err = s.err := rfl
@[simp] theorem State.move_errCause (l : List Transfer) (s : State) : (State.move l s).errCause = s.errCause := rfl
@[simp] theorem State.move_env (l : List Transfer) (s : State) : (State.move l s).env = s.env := rfl
@[simp] theorem State.move_pending (l : List Transfer) (s : State) : (State.move l s).pending = s.pending := rfl
@[simp] theorem State.move_transfers (l : List Transfer) (s : State) : (State.move l s).transfers = s.transfers ++ l := rfl
@[simp] theorem State.move_freeCount (l : List Transfer) (s : State) : (State.move l s).freeCount = s.freeCount := rfl

@[simp] theorem State.emit_params (e : Event) (s : State) : (State.emit e s).params = s.params := rfl
@[simp] theorem State.emit_seq (e : Event) (s : State) : (State.emit e s).seq = s.seq := rfl
@[simp] theorem State.emit_frag (e : Event) (s : State) : (State.emit e s).frag = s.frag := rfl
@[simp] theorem State.emit_offset (e : Event) (s : State) : (State.emit e s).offset = s.offset := rfl
@[simp] theorem State.emit_pbuf (e : Event) (s : State) : (State.emit e s).pbuf = s.pbuf := rfl
@[simp] theorem State.emit_byteTotal (e : Event) (s : State) : (State.emit e s).byteTotal = s.byteTotal := rfl
@[simp] theorem State.emit_windowStart (e : Event) (s : State) : (State.emit e s).windowStart = s.windowStart := rfl
@[simp] theorem State.emit_timerValid (e : Event) (s : State) : (State.emit e s).timerValid = s.timerValid := rfl
@[simp] theorem State.emit_rateSnapshot (e : Event) (s : State) : (State.emit e s).rateSnapshot = s.rateSnapshot := rfl
@[simp] theorem State.emit_snap (e : Event) (s : State) : (State.emit e s).snap = s.snap := rfl
@[simp] theorem State.emit_j (e : Event) (s : State) : (State.emit e s).j = s.j := rfl
@[simp] theorem State.emit_err (e : Event) (s : State) : (State.emit e s).err = s.err := rfl
@[simp] theorem State.emit_errCause (e : Event) (s : State) : (State.emit e s).errCause = s.errCause := rfl
@[simp] theorem State.emit_env (e : Event) (s : State) : (State.emit e s).env = s.env := rfl
@[simp] theorem State.emit_pending (e : Event) (s : State) : (State.emit e s).pending = s.pending := rfl
@[simp] theorem State.emit_transfers (e : Event) (s : State) : (State.emit e s).transfers = s.transfers ++ [.event e] := rfl
@[simp] theorem State.emit_freeCount (e : Event) (s : State) : (State.emit e s).freeCount = s.freeCount := rfl

@[simp] theorem State.respond_params (v : Word) (s : State) : (State.respond v s).params = s.params := rfl
@[simp] theorem State.respond_seq (v : Word) (s : State) : (State.respond v s).seq = s.seq := rfl
@[simp] theorem State.respond_frag (v : Word) (s : State) : (State.respond v s).frag = s.frag := rfl
@[simp] theorem State.respond_offset (v : Word) (s : State) : (State.respond v s).offset = s.offset := rfl
@[simp] theorem State.respond_pbuf (v : Word) (s : State) : (State.respond v s).pbuf = s.pbuf := rfl
@[simp] theorem State.respond_byteTotal (v : Word) (s : State) : (State.respond v s).byteTotal = s.byteTotal := rfl
@[simp] theorem State.respond_windowStart (v : Word) (s : State) : (State.respond v s).windowStart = s.windowStart := rfl
@[simp] theorem State.respond_timerValid (v : Word) (s : State) : (State.respond v s).timerValid = s.timerValid := rfl
@[simp] theorem State.respond_rateSnapshot (v : Word) (s : State) : (State.respond v s).rateSnapshot = s.rateSnapshot := rfl
@[simp] theorem State.respond_snap (v : Word) (s : State) : (State.respond v s).snap = s.snap := rfl
@[simp] theorem State.respond_j (v : Word) (s : State) : (State.respond v s).j = s.j := rfl
@[simp] theorem State.respond_err (v : Word) (s : State) : (State.respond v s).err = s.err := rfl
@[simp] theorem State.respond_errCause (v : Word) (s : State) : (State.respond v s).errCause = s.errCause := rfl
@[simp] theorem State.respond_env (v : Word) (s : State) : (State.respond v s).env = s.env := rfl
@[simp] theorem State.respond_pending (v : Word) (s : State) : (State.respond v s).pending = s.pending := rfl
@[simp] theorem State.respond_transfers (v : Word) (s : State) : (State.respond v s).transfers = s.transfers ++ [.event (.resp 0 0 v)] := rfl
@[simp] theorem State.respond_freeCount (v : Word) (s : State) : (State.respond v s).freeCount = s.freeCount := rfl

@[simp] theorem State.forgetOffset_params (s : State) : (State.forgetOffset s).params = s.params := rfl
@[simp] theorem State.forgetOffset_seq (s : State) : (State.forgetOffset s).seq = s.seq := rfl
@[simp] theorem State.forgetOffset_frag (s : State) : (State.forgetOffset s).frag = s.frag := rfl
@[simp] theorem State.forgetOffset_offset (s : State) : (State.forgetOffset s).offset = Config.freeOffset s.freeCount := rfl
@[simp] theorem State.forgetOffset_pbuf (s : State) : (State.forgetOffset s).pbuf = s.pbuf := rfl
@[simp] theorem State.forgetOffset_byteTotal (s : State) : (State.forgetOffset s).byteTotal = s.byteTotal := rfl
@[simp] theorem State.forgetOffset_windowStart (s : State) : (State.forgetOffset s).windowStart = s.windowStart := rfl
@[simp] theorem State.forgetOffset_timerValid (s : State) : (State.forgetOffset s).timerValid = s.timerValid := rfl
@[simp] theorem State.forgetOffset_rateSnapshot (s : State) : (State.forgetOffset s).rateSnapshot = s.rateSnapshot := rfl
@[simp] theorem State.forgetOffset_snap (s : State) : (State.forgetOffset s).snap = s.snap := rfl
@[simp] theorem State.forgetOffset_j (s : State) : (State.forgetOffset s).j = s.j := rfl
@[simp] theorem State.forgetOffset_err (s : State) : (State.forgetOffset s).err = s.err := rfl
@[simp] theorem State.forgetOffset_errCause (s : State) : (State.forgetOffset s).errCause = s.errCause := rfl
@[simp] theorem State.forgetOffset_env (s : State) : (State.forgetOffset s).env = s.env := rfl
@[simp] theorem State.forgetOffset_pending (s : State) : (State.forgetOffset s).pending = s.pending := rfl
@[simp] theorem State.forgetOffset_transfers (s : State) : (State.forgetOffset s).transfers = s.transfers := rfl
@[simp] theorem State.forgetOffset_freeCount (s : State) : (State.forgetOffset s).freeCount = s.freeCount + 1 := rfl

@[simp] theorem State.forgetPbuf_params (s : State) : (State.forgetPbuf s).params = s.params := rfl
@[simp] theorem State.forgetPbuf_seq (s : State) : (State.forgetPbuf s).seq = s.seq := rfl
@[simp] theorem State.forgetPbuf_frag (s : State) : (State.forgetPbuf s).frag = s.frag := rfl
@[simp] theorem State.forgetPbuf_offset (s : State) : (State.forgetPbuf s).offset = s.offset := rfl
@[simp] theorem State.forgetPbuf_pbuf (s : State) : (State.forgetPbuf s).pbuf = (List.range s.params.maxFramePayload).map (Config.freePbufByte s.freeCount) := rfl
@[simp] theorem State.forgetPbuf_byteTotal (s : State) : (State.forgetPbuf s).byteTotal = s.byteTotal := rfl
@[simp] theorem State.forgetPbuf_windowStart (s : State) : (State.forgetPbuf s).windowStart = s.windowStart := rfl
@[simp] theorem State.forgetPbuf_timerValid (s : State) : (State.forgetPbuf s).timerValid = s.timerValid := rfl
@[simp] theorem State.forgetPbuf_rateSnapshot (s : State) : (State.forgetPbuf s).rateSnapshot = s.rateSnapshot := rfl
@[simp] theorem State.forgetPbuf_snap (s : State) : (State.forgetPbuf s).snap = s.snap := rfl
@[simp] theorem State.forgetPbuf_j (s : State) : (State.forgetPbuf s).j = s.j := rfl
@[simp] theorem State.forgetPbuf_err (s : State) : (State.forgetPbuf s).err = s.err := rfl
@[simp] theorem State.forgetPbuf_errCause (s : State) : (State.forgetPbuf s).errCause = s.errCause := rfl
@[simp] theorem State.forgetPbuf_env (s : State) : (State.forgetPbuf s).env = s.env := rfl
@[simp] theorem State.forgetPbuf_pending (s : State) : (State.forgetPbuf s).pending = s.pending := rfl
@[simp] theorem State.forgetPbuf_transfers (s : State) : (State.forgetPbuf s).transfers = s.transfers := rfl
@[simp] theorem State.forgetPbuf_freeCount (s : State) : (State.forgetPbuf s).freeCount = s.freeCount + 1 := rfl

@[simp] theorem State.forgetMux_params (s : State) : (State.forgetMux s).params = s.params := rfl
@[simp] theorem State.forgetMux_seq (s : State) : (State.forgetMux s).seq = s.seq := rfl
@[simp] theorem State.forgetMux_frag (s : State) : (State.forgetMux s).frag = s.frag := rfl
@[simp] theorem State.forgetMux_offset (s : State) : (State.forgetMux s).offset = s.offset := rfl
@[simp] theorem State.forgetMux_pbuf (s : State) : (State.forgetMux s).pbuf = s.pbuf := rfl
@[simp] theorem State.forgetMux_byteTotal (s : State) : (State.forgetMux s).byteTotal = s.byteTotal := rfl
@[simp] theorem State.forgetMux_windowStart (s : State) : (State.forgetMux s).windowStart = s.windowStart := rfl
@[simp] theorem State.forgetMux_timerValid (s : State) : (State.forgetMux s).timerValid = s.timerValid := rfl
@[simp] theorem State.forgetMux_rateSnapshot (s : State) : (State.forgetMux s).rateSnapshot = s.rateSnapshot := rfl
@[simp] theorem State.forgetMux_snap (s : State) : (State.forgetMux s).snap = ((Config.freeSnap s.freeCount).take Config.maxDests).map (onPort s.params.destIdW) := rfl
@[simp] theorem State.forgetMux_j (s : State) : (State.forgetMux s).j = Config.freeJ s.freeCount := rfl
@[simp] theorem State.forgetMux_err (s : State) : (State.forgetMux s).err = s.err := rfl
@[simp] theorem State.forgetMux_errCause (s : State) : (State.forgetMux s).errCause = s.errCause := rfl
@[simp] theorem State.forgetMux_env (s : State) : (State.forgetMux s).env = s.env := rfl
@[simp] theorem State.forgetMux_pending (s : State) : (State.forgetMux s).pending = s.pending := rfl
@[simp] theorem State.forgetMux_transfers (s : State) : (State.forgetMux s).transfers = s.transfers := rfl
@[simp] theorem State.forgetMux_freeCount (s : State) : (State.forgetMux s).freeCount = s.freeCount + 1 := rfl

end Sys2Proof.Machine
end

