-- ==== Sys2Proof/Laws/Procedures.lean ====
section
/-! SUPPORT. What each shared procedure does, said once: the payload buffer, FRAMER, SAMPLER and DISPATCHER. -/

namespace Sys2Proof.Machine

/-! ### Lists -/

theorem map_range_padded (g : Nat → Byte) {len M : Nat} (h : len ≤ M) :
    (List.range M).map (fun k => if k < len then g k else 0) =
      (List.range len).map g ++ List.replicate (M - len) 0 := by
  apply List.ext_getElem
  · simp; omega
  · intro k h1 h2
    rw [List.getElem_append]
    split
    · rename_i hk
      simp only [List.length_map, List.length_range] at hk
      simp [hk]
    · rename_i hk
      simp only [List.length_map, List.length_range] at hk
      simp [hk]

theorem range_succ_flatMap {α : Type} (f : Nat → List α) (c i : Nat) :
    (List.range' i (c + 1)).flatMap f = f i ++ (List.range' (i + 1) c).flatMap f := by
  simp [List.range'_succ]

/-! ### The splitter's arithmetic -/

theorem fragmentCount_mul {n M : Nat} (hM : 1 ≤ M) : n ≤ fragmentCount n M * M ∧ fragmentCount n M * M < n + M := by
  unfold fragmentCount
  have h1 := Nat.div_mul_le_self (n + M - 1) M
  have h2 := Nat.lt_div_mul_add (a := n + M - 1) (show 0 < M by omega)
  omega

theorem lt_fragmentCount {n M i : Nat} (hM : 1 ≤ M) : i < fragmentCount n M ↔ i * M < n := by
  obtain ⟨h1, h2⟩ := fragmentCount_mul (n := n) hM
  constructor
  · intro h
    have : (i + 1) * M ≤ fragmentCount n M * M := Nat.mul_le_mul_right M h
    rw [Nat.add_mul] at this
    omega
  · intro h
    by_contra hc
    have : fragmentCount n M * M ≤ i * M := Nat.mul_le_mul_right M (by omega)
    omega

/-- The length the loop computes for frame i is the one R104 gives. -/
theorem min_eq_frameLength {n M i : Nat} (hM : 1 ≤ M) (hn : ¬ n < M) (hi : i < fragmentCount n M) :
    min (n - i * M) M = frameLength n M i := by
  unfold frameLength
  rw [if_neg hn]
  obtain ⟨h1, h2⟩ := fragmentCount_mul (n := n) hM
  split
  · rename_i h
    have := (lt_fragmentCount hM).1 h
    rw [Nat.add_mul] at this
    omega
  · have : fragmentCount n M - 1 = i := by omega
    rw [this]
    have hc : fragmentCount n M = i + 1 := by omega
    rw [hc, Nat.add_mul] at h1
    omega

theorem frameLength_le {n M i : Nat} (hM : 1 ≤ M) (hi : i < frameCount n M) : frameLength n M i ≤ M := by
  unfold frameCount at hi
  by_cases hn : n < M
  · unfold frameLength; rw [if_pos hn]; omega
  · rw [if_neg hn] at hi
    rw [← min_eq_frameLength hM hn hi]; omega

theorem frame_end_le {n M i : Nat} (hM : 1 ≤ M) (hi : i < frameCount n M) :
    i * M + frameLength n M i ≤ n := by
  unfold frameCount at hi
  by_cases hn : n < M
  · rw [if_pos hn] at hi
    have : i = 0 := by omega
    subst this
    unfold frameLength; rw [if_pos hn]; omega
  · rw [if_neg hn] at hi
    rw [← min_eq_frameLength hM hn hi]
    have := (lt_fragmentCount hM).1 hi
    omega

/-- The lengths up to frame i add up to where frame i ends (R104, R107). -/
theorem frame_end {n M i : Nat} (hM : 1 ≤ M) (hi : i < frameCount n M) :
    i * M + frameLength n M i = min n ((i + 1) * M) := by
  unfold frameCount at hi
  by_cases hn : n < M
  · rw [if_pos hn] at hi
    have : i = 0 := by omega
    subst this
    unfold frameLength; rw [if_pos hn]; omega
  · rw [if_neg hn] at hi
    rw [← min_eq_frameLength hM hn hi, Nat.add_mul]
    have := (lt_fragmentCount hM).1 hi
    omega

/-! ### The payload buffer -/

theorem addrsFrom_toNat {a n : Nat} (h : a + n ≤ 2 ^ 32) :
    (addrsFrom (BitVec.ofNat 32 a) n).map BitVec.toNat = (List.range n).map fun k => a + k := by
  unfold addrsFrom
  rw [List.map_map]
  apply List.map_congr_left
  intro k hk
  rw [List.mem_range] at hk
  simp only [Function.comp_apply, BitVec.toNat_add, BitVec.toNat_ofNat]
  omega

theorem addrsFrom_eq (a n : Nat) :
    addrsFrom (BitVec.ofNat 32 a) n = (List.range n).map fun k => BitVec.ofNat 32 (a + k) := by
  unfold addrsFrom
  apply List.map_congr_left
  intro k _
  rw [← BitVec.ofNat_add]

theorem memBytes_eq {s : State} {a n : Nat} (h : a + n ≤ 2 ^ 32) :
    memBytes s (BitVec.ofNat 32 a) n = (List.range n).map fun k => Memory.read s.env.blob (a + k) := by
  have := congrArg (List.map (Memory.read s.env.blob)) (addrsFrom_toNat h)
  rw [List.map_map, List.map_map] at this
  exact this

/-- Loading PBUF: n bytes from address a, then 0x00, and the n reads (R102, R60). -/
theorem loadPbuf_eq {s : State} {a n : Nat} (h : a + n ≤ 2 ^ 32) (hn : n ≤ s.params.maxFramePayload) :
    loadPbuf (BitVec.ofNat 32 a) n s =
      { s with
        pbuf := (List.range s.params.maxFramePayload).map fun k =>
          if k < n then Memory.read s.env.blob (a + k) else 0,
        transfers := s.transfers ++ (List.range n).map fun k => Transfer.blobRd (BitVec.ofNat 32 (a + k)) } := by
  rw [map_range_padded _ hn]
  simp only [loadPbuf, State.move, State.setPbuf, memBytes_eq h, addrsFrom_eq, List.map_map]
  rfl

/-! ### FRAMER -/

/-- The BIS reads for frame i (R60). -/
def frameReads (p : Params) (n i : Nat) : List Transfer :=
  (List.range (frameLength n p.maxFramePayload i)).map fun k =>
    Transfer.blobRd (BitVec.ofNat 32 (i * p.maxFramePayload + k))

/-- What a hook may do: append transfers, and use SNAP and J. -/
def HookSpec (hook : Nat → Frame → State → State) (out : Params → Env → Nat → Frame → List Transfer) : Prop :=
  ∀ i f s, ∃ sn j, hook i f s = { s with snap := sn, j := j, transfers := s.transfers ++ out s.params s.env i f }

theorem flags_eq_frameFlags {n M i : Nat} (hn : ¬ n < M) (sq : BitVec 5) :
    flagsByte 1 (BitVec.ofNat 2 i) sq = BitVec.ofNat 8 (frameFlags n M sq.toNat i) := by
  apply BitVec.eq_of_toNat_eq
  rw [flagsByte_toNat, BitVec.toNat_ofNat, BitVec.toNat_ofNat, frameFlags, if_neg hn]
  have := sq.isLt
  simp
  omega

theorem flags_eq_soleFlags {n M : Nat} (hn : n < M) (sq : BitVec 5) :
    flagsByte 0 0 sq = BitVec.ofNat 8 (frameFlags n M sq.toNat 0) := by
  apply BitVec.eq_of_toNat_eq
  rw [flagsByte_toNat, BitVec.toNat_ofNat, frameFlags, if_pos hn]
  have := sq.isLt
  simp
  omega

/-- One turn of the loop (R102, R112): the reads of frame i, then what the hook does with it. -/
theorem fragmentBody_spec {hook : Nat → Frame → State → State} {out : Params → Env → Nat → Frame → List Transfer}
    (hh : HookSpec hook out) {n i : Nat} (sq : BitVec 5) {s : State}
    (hn32 : n < 2 ^ 32) (hn : ¬ n < s.params.maxFramePayload)
    (hi : i < fragmentCount n s.params.maxFramePayload)
    (ho : s.offset = BitVec.ofNat 32 (i * s.params.maxFramePayload)) (hf : s.frag = BitVec.ofNat 2 i) :
    ∃ pb sn j, fragmentBody n sq hook i s =
      { s with
        offset := BitVec.ofNat 32 (i * s.params.maxFramePayload + frameLength n s.params.maxFramePayload i),
        pbuf := pb, snap := sn, j := j, frag := BitVec.ofNat 2 (i + 1),
        transfers := s.transfers ++ (frameReads s.params n i ++
          out s.params s.env i (blobFrame s.params s.env sq n i)) } := by
  have hM := s.params.maxFramePayload_pos
  have hfc : frameCount n s.params.maxFramePayload = fragmentCount n s.params.maxFramePayload := if_neg hn
  have hlt := (lt_fragmentCount hM).1 hi
  have hend := frame_end_le hM (hfc ▸ hi)
  have hle := frameLength_le hM (hfc ▸ hi)
  have hoff : s.offset.toNat = i * s.params.maxFramePayload := by
    rw [ho, BitVec.toNat_ofNat]; omega
  have hlen : min (n - s.offset.toNat) s.params.maxFramePayload = frameLength n s.params.maxFramePayload i := by
    rw [hoff, min_eq_frameLength hM hn hi]
  have hload := loadPbuf_eq (s := s) (a := i * s.params.maxFramePayload) (by omega) hle
  rw [← ho] at hload
  have hflag : flagsByte 1 s.frag sq = BitVec.ofNat 8 (frameFlags n s.params.maxFramePayload sq.toNat i) := by
    rw [hf, flags_eq_frameFlags hn]
  unfold fragmentBody
  simp only [hlen, hload, frameOfPbuf, hflag]
  obtain ⟨sn, j, hk⟩ := hh i
    ⟨BitVec.ofNat 8 (frameLength n s.params.maxFramePayload i),
      BitVec.ofNat 8 (frameFlags n s.params.maxFramePayload sq.toNat i),
      (List.range s.params.maxFramePayload).map fun k =>
        if k < frameLength n s.params.maxFramePayload i then
          Memory.read s.env.blob (i * s.params.maxFramePayload + k) else 0⟩
    { s with
      pbuf := (List.range s.params.maxFramePayload).map fun k =>
        if k < frameLength n s.params.maxFramePayload i then
          Memory.read s.env.blob (i * s.params.maxFramePayload + k) else 0,
      transfers := s.transfers ++ (List.range (frameLength n s.params.maxFramePayload i)).map fun k =>
        Transfer.blobRd (BitVec.ofNat 32 (i * s.params.maxFramePayload + k)) }
  rw [hk]
  refine ⟨framePayload s.env n s.params.maxFramePayload i, sn, j, ?_⟩
  have hnext : BitVec.ofNat 2 i + 1 = BitVec.ofNat 2 (i + 1) := by rw [BitVec.ofNat_add]; rfl
  simp only [State.setOffset, State.setFrag, hf, ho, hnext, ← BitVec.ofNat_add, List.append_assoc]
  rfl

/-- R102's loop from frame i on. -/
theorem fragments_spec {hook : Nat → Frame → State → State} {out : Params → Env → Nat → Frame → List Transfer}
    (hh : HookSpec hook out) {n : Nat} (sq : BitVec 5) (hn32 : n < 2 ^ 32) (count : Nat) :
    ∀ (i : Nat) (s : State), ¬ n < s.params.maxFramePayload →
      i + count = fragmentCount n s.params.maxFramePayload →
      (0 < count → s.offset = BitVec.ofNat 32 (i * s.params.maxFramePayload)) → s.frag = BitVec.ofNat 2 i →
      ∃ off pb sn j, fragments n sq hook count i s =
        { s with
          offset := off, pbuf := pb, snap := sn, j := j, frag := BitVec.ofNat 2 (i + count),
          transfers := s.transfers ++ (List.range' i count).flatMap fun i =>
            frameReads s.params n i ++ out s.params s.env i (blobFrame s.params s.env sq n i) } := by
  induction count with
  | zero =>
    intro i s _ _ _ hf
    exact ⟨s.offset, s.pbuf, s.snap, s.j, by simp [fragments, ← hf]⟩
  | succ count ih =>
    intro i s hn hc ho hf
    have hM := s.params.maxFramePayload_pos
    have hi : i < fragmentCount n s.params.maxFramePayload := by omega
    obtain ⟨pb, sn, j, hb⟩ := fragmentBody_spec hh sq hn32 hn hi (ho (by omega)) hf
    rw [fragments, hb]
    obtain ⟨off', pb', sn', j', hr⟩ := ih (i + 1)
      { s with
        offset := BitVec.ofNat 32 (i * s.params.maxFramePayload + frameLength n s.params.maxFramePayload i),
        pbuf := pb, snap := sn, j := j, frag := BitVec.ofNat 2 (i + 1),
        transfers := s.transfers ++ (frameReads s.params n i ++
          out s.params s.env i (blobFrame s.params s.env sq n i)) }
      hn (by simp only; omega)
      (by
        intro h0
        simp only
        congr 1
        have hfl : frameLength n s.params.maxFramePayload i = s.params.maxFramePayload := by
          unfold frameLength; rw [if_neg hn, if_pos (by omega)]
        rw [hfl, Nat.add_mul]; omega)
      rfl
    refine ⟨off', pb', sn', j', ?_⟩
    rw [hr]
    simp only [range_succ_flatMap, List.append_assoc]
    congr 2
    omega

/-- All FRAMER does (R102 to R106). -/
theorem framer_spec {hook : Nat → Frame → State → State} {out : Params → Env → Nat → Frame → List Transfer}
    (hh : HookSpec hook out) (n : Addr) (s : State) :
    ∃ off pb sn j, framer n hook s =
      { s with
        seq := s.seq + 1, frag := fragAfter n.toNat s.params.maxFramePayload,
        offset := off, pbuf := pb, snap := sn, j := j,
        transfers := s.transfers ++ (List.range (frameCount n.toNat s.params.maxFramePayload)).flatMap fun i =>
          frameReads s.params n.toNat i ++ out s.params s.env i (blobFrame s.params s.env s.seq n.toNat i) } := by
  have hframer : framer n hook s =
      (if n.toNat < s.params.maxFramePayload then soleFrame n.toNat s.seq hook (s.setFrag 0)
        else fragments n.toNat s.seq hook (fragmentCount n.toNat s.params.maxFramePayload) 0
          ((s.setFrag 0).setOffset 0)).setSeq (s.seq + 1) := rfl
  rw [hframer]
  by_cases hn : n.toNat < s.params.maxFramePayload
  · rw [if_pos hn]
    have hload : loadPbuf 0 n.toNat (s.setFrag 0) = _ :=
      loadPbuf_eq (s := s.setFrag 0) (a := 0) (by have := n.isLt; omega) (by rw [State.setFrag_params]; omega)
    obtain ⟨sn, j, hk⟩ := hh 0 (blobFrame s.params s.env s.seq n.toNat 0)
      { s with
        frag := 0,
        pbuf := (List.range s.params.maxFramePayload).map fun k =>
          if k < n.toNat then Memory.read s.env.blob (0 + k) else 0,
        transfers := s.transfers ++
          (List.range n.toNat).map fun k => Transfer.blobRd (BitVec.ofNat 32 (0 + k)) }
    refine ⟨s.offset, (List.range s.params.maxFramePayload).map fun k =>
          if k < n.toNat then Memory.read s.env.blob (0 + k) else 0, sn, j, ?_⟩
    have hbf : blobFrame s.params s.env s.seq n.toNat 0 =
        ⟨BitVec.ofNat 8 n.toNat, flagsByte 0 0 s.seq, (List.range s.params.maxFramePayload).map fun k =>
          if k < n.toNat then Memory.read s.env.blob (0 + k) else 0⟩ := by
      rw [flags_eq_soleFlags hn]
      simp only [blobFrame, framePayload, frameLength, if_pos hn, Nat.zero_mul]
    simp only [soleFrame, hload, frameOfPbuf]
    rw [hbf] at hk
    simp only [State.setFrag, hk]
    simp only [State.setSeq, fragAfter, if_pos hn, frameCount, List.range_one, List.flatMap_cons, List.flatMap_nil,
      List.append_nil, hbf, frameReads, frameLength, Nat.zero_mul, List.append_assoc]
  · rw [if_neg hn]
    obtain ⟨off, pb, sn, j, hr⟩ := fragments_spec hh s.seq n.isLt
      (fragmentCount n.toNat s.params.maxFramePayload) 0 ((s.setFrag 0).setOffset 0) hn (by simp)
      (by intro _; simp) (by simp)
    refine ⟨off, pb, sn, j, ?_⟩
    rw [hr]
    simp only [State.setSeq, State.setFrag, State.setOffset, fragAfter, if_neg hn, frameCount, Nat.zero_add,
      List.range_eq_range']

/-! ### DISPATCHER -/

theorem snapshotOf_length_le (p : Params) (e : Env) (k : Nat) : (snapshotOf p e k).length ≤ 255 := by
  simp only [snapshotOf, answerOf, List.length_map, List.length_take, Config.maxDests]
  omega

theorem muxLoop_spec (k : Nat) (f : Frame) (count : Nat) :
    ∀ (i : Nat) (s : State), i + count ≤ 255 → s.snap = snapshotOf s.params s.env k →
      ∃ j, muxLoop k f count i s =
        { s with
          j := j,
          transfers := s.transfers ++
            ((List.range' i count).flatMap (destinationEvents s.params s.env k f)).map .event } := by
  induction count with
  | zero => intro i s _ _; exact ⟨s.j, by simp [muxLoop]⟩
  | succ count ih =>
    intro i s hc hs
    have hi : (BitVec.ofNat 8 i : Byte).toNat = i := by rw [BitVec.toNat_ofNat]; omega
    have hbody : muxBody k f (s.setJ (BitVec.ofNat 8 i)) =
        { s with
          j := BitVec.ofNat 8 i,
          transfers := s.transfers ++ (destinationEvents s.params s.env k f i).map .event } := by
      unfold muxBody destinationEvents
      simp only [State.setJ_params, State.setJ_env, State.setJ_j, State.setJ_snap, hi, hs]
      cases routeOf s.params s.env k i <;> simp [State.emit, State.move, State.setJ, hs]
    obtain ⟨j, hr⟩ := ih (i + 1) (muxBody k f (s.setJ (BitVec.ofNat 8 i))) (by omega) (by rw [hbody]; exact hs)
    refine ⟨j, ?_⟩
    rw [muxLoop, hr, hbody]
    simp only [range_succ_flatMap, List.map_append, List.append_assoc]

/-- All DISPATCHER does (R153, R161). -/
theorem dispatcher_spec (k : Nat) (f : Frame) (s : State) :
    ∃ j, dispatcher k f s =
      { s with
        snap := snapshotOf s.params s.env k, j := j,
        transfers := s.transfers ++ dispatchTransfers s.params s.env k f } := by
  obtain ⟨j, hr⟩ := muxLoop_spec k f (snapshotOf s.params s.env k).length 0
    ((s.emit .destQuery).setSnap (snapshotOf s.params s.env k))
    (by have := snapshotOf_length_le s.params s.env k; omega) rfl
  refine ⟨j, ?_⟩
  unfold dispatcher
  simp only [State.setSnap_snap]
  rw [hr]
  simp [State.emit, State.move, State.setSnap, dispatchTransfers, dispatchEvents, List.range_eq_range']

/-! ### The two hooks -/

theorem showFrame_spec : HookSpec showFrame (fun _ _ _ f => [.event (.frameOut f)]) :=
  fun _ _ s => ⟨s.snap, s.j, rfl⟩

theorem showAndDispatch_spec :
    HookSpec showAndDispatch (fun p e i f => .event (.frameOut f) :: dispatchTransfers p e i f) := by
  intro i f s
  obtain ⟨j, h⟩ := dispatcher_spec i f (s.emit (.frameOut f))
  refine ⟨snapshotOf s.params s.env i, j, ?_⟩
  rw [showAndDispatch, h]
  simp [State.emit, State.move]

/-! ### SAMPLER -/

theorem elapsedMs_eq (now start : Word) : elapsedMs now start = now.toNat - start.toNat := by
  unfold elapsedMs; split <;> omega

/-- All SAMPLER does (R131). -/
theorem sampler_spec (c : Addr) (now : Word) (s : State) :
    sampler c now s =
      if windowCloses s now then
        { s with
          byteTotal := 0, windowStart := now, rateSnapshot := arrivalRate s c now,
          transfers := s.transfers ++ [.event (.rateOut (arrivalRate s c now))] }
      else if s.timerValid then { s with byteTotal := s.byteTotal + c.setWidth 64 }
      else s := by
  unfold sampler windowCloses
  cases h : s.timerValid
  · simp
  · simp only [if_true, Bool.true_and, elapsedMs_eq, Config.windowMs, State.setByteTotal_windowStart,
      decide_eq_true_eq]
    split <;> simp [closeWindow, State.setByteTotal, State.setWindowStart, State.setRateSnapshot, State.emit,
      State.move, rateOf, arrivalRate, countWord, h]

end Sys2Proof.Machine
end

