-- ==== Sys2Proof/Laws/Exec.lean ====
section
/-! SUPPORT. What each command does, said once: the state it leaves but for the transient registers, and the shapes of
those. -/

namespace Sys2Proof.Machine

/-- The state after an arrival, its event included (R131). -/
def afterArrival (c : Addr) (s : State) : State :=
  if windowCloses s s.env.nowMs then
    { s with
      byteTotal := 0, windowStart := s.env.nowMs, rateSnapshot := arrivalRate s c s.env.nowMs,
      transfers := s.transfers ++ arrivalTransfers s c }
  else if s.timerValid then { s with byteTotal := s.byteTotal + c.setWidth 64 }
  else s

theorem sampler_now (c : Addr) (s : State) : sampler c (readNow s) s = afterArrival c s := by
  rw [sampler_spec, afterArrival, readNow, arrivalTransfers]
  split <;> rfl

/-- The transfers of a blob that is framed and shown (R101). -/
def framedTransfers (p : Params) (e : Env) (sq : BitVec 5) (n : Nat) : List Transfer :=
  (List.range (frameCount n p.maxFramePayload)).flatMap (frameTransfers p e sq n)

/-- The transfers of a blob that is framed, shown and dispatched (R172). -/
def relayedTransfers (p : Params) (e : Env) (sq : BitVec 5) (n : Nat) : List Transfer :=
  (List.range (frameCount n p.maxFramePayload)).flatMap fun i =>
    frameTransfers p e sq n i ++ dispatchTransfers p e i (blobFrame p e sq n i)

/-- The OK response with a value, as a transfer (R84). -/
def okResp (v : Word) : Transfer := .event (.resp 0 0 v)

/-- The state a command leaves, the transient registers and the model's counter apart. -/
def after : Instr → State → State
  | .nop, s => { s with transfers := s.transfers ++ [okResp 0] }
  | .blob n, s =>
    { afterArrival n s with
      seq := s.seq + 1, frag := fragAfter n.toNat s.params.maxFramePayload,
      transfers := s.transfers ++
        (arrivalTransfers s n ++ (relayedTransfers s.params s.env s.seq n.toNat ++ [okResp 0])) }
  | .frame n, s =>
    { s with
      seq := s.seq + 1, frag := fragAfter n.toNat s.params.maxFramePayload,
      transfers := s.transfers ++ (framedTransfers s.params s.env s.seq n.toNat ++ [okResp 0]) }
  | .sample n, s =>
    { afterArrival n s with transfers := s.transfers ++ (arrivalTransfers s n ++ [okResp 0]) }
  | .dispatch flags len, s =>
    if s.params.maxFramePayload < len.toNat then raise .frameTooLong s
    else
      { s with
        transfers := s.transfers ++
          (((List.range len.toNat).map fun k => Transfer.blobRd (BitVec.ofNat 32 k)) ++
            (dispatchTransfers s.params s.env 0 (hostFrame s.params s.env flags len) ++ [okResp 0])) }
  | .smpStart, s =>
    { s with
      windowStart := s.env.nowMs, byteTotal := 0, timerValid := true, transfers := s.transfers ++ [okResp 0] }
  | .readreg idx, s =>
    match regValue s idx with
    | none => raise .badRegIndex s
    | some v => { s with transfers := s.transfers ++ [okResp v] }

theorem afterArrival_transfers (c : Addr) (s : State) :
    (afterArrival c s).transfers = s.transfers ++ arrivalTransfers s c := by
  unfold afterArrival arrivalTransfers
  split <;> [rfl; split <;> simp]

@[simp] theorem afterArrival_params (c : Addr) (s : State) : (afterArrival c s).params = s.params := by
  unfold afterArrival; split <;> [rfl; split <;> rfl]

@[simp] theorem afterArrival_env (c : Addr) (s : State) : (afterArrival c s).env = s.env := by
  unfold afterArrival; split <;> [rfl; split <;> rfl]

@[simp] theorem afterArrival_seq (c : Addr) (s : State) : (afterArrival c s).seq = s.seq := by
  unfold afterArrival; split <;> [rfl; split <;> rfl]

@[simp] theorem afterArrival_pending (c : Addr) (s : State) : (afterArrival c s).pending = s.pending := by
  unfold afterArrival; split <;> [rfl; split <;> rfl]

@[simp] theorem afterArrival_err (c : Addr) (s : State) : (afterArrival c s).err = s.err := by
  unfold afterArrival; split <;> [rfl; split <;> rfl]

@[simp] theorem afterArrival_errCause (c : Addr) (s : State) : (afterArrival c s).errCause = s.errCause := by
  unfold afterArrival; split <;> [rfl; split <;> rfl]

@[simp] theorem afterArrival_timerValid (c : Addr) (s : State) : (afterArrival c s).timerValid = s.timerValid := by
  unfold afterArrival; split <;> [rfl; split <;> rfl]

theorem execFrame_spec (n : Addr) (s : State) :
    ∃ t, execFrame n s = .next t ∧ SameButTransients t (after (.frame n) s) := by
  obtain ⟨off, pb, sn, j, h⟩ := framer_spec showFrame_spec n s
  refine ⟨_, rfl, ?_⟩
  simp only [SameButTransients, State.eraseTransients, h, after, State.respond, State.emit, State.move,
    State.forgetOffset, State.forgetPbuf, List.append_assoc]
  rfl

theorem execBlob_spec (n : Addr) (s : State) :
    ∃ t, execBlob n s = .next t ∧ SameButTransients t (after (.blob n) s) := by
  obtain ⟨off, pb, sn, j, h⟩ := framer_spec showAndDispatch_spec n (sampler n (readNow s) s)
  rw [sampler_now] at h
  refine ⟨_, rfl, ?_⟩
  rw [sampler_now]
  simp only [SameButTransients, State.eraseTransients, h, after, State.respond, State.emit, State.move,
    State.forgetOffset, State.forgetPbuf, State.forgetMux, afterArrival_params, afterArrival_env, afterArrival_seq,
    afterArrival_transfers, List.append_assoc, relayedTransfers, frameTransfers, frameReads, okResp,
    List.singleton_append]

theorem execSample_spec (n : Addr) (s : State) : execSample n s = .next (after (.sample n) s) := by
  simp only [execSample, sampler_now, after, State.respond, State.emit, State.move, afterArrival_transfers,
    List.append_assoc, okResp]

theorem execDispatch_spec (flags len : Byte) (s : State) :
    ∃ t, execDispatch flags len s = .next t ∧ SameButTransients t (after (.dispatch flags len) s) ∧
      t.offset = s.offset := by
  by_cases hl : s.params.maxFramePayload < len.toNat
  · refine ⟨raise .frameTooLong s, ?_, ?_, rfl⟩
    · simp only [execDispatch, frameTooLong, decide_eq_true hl, if_true]
    · rw [after, if_pos hl]; rfl
  · have hload : loadPbuf 0 len.toNat s = _ :=
      loadPbuf_eq (s := s) (a := 0) (n := len.toNat) (by have := len.isLt; omega) (by omega)
    obtain ⟨j, h⟩ := dispatcher_spec 0 (hostFrame s.params s.env flags len) (loadPbuf 0 len.toNat s)
    have hf : frameOfPbuf len.toNat flags (loadPbuf 0 len.toNat s) = hostFrame s.params s.env flags len := by
      rw [hload]
      simp [frameOfPbuf, hostFrame]
    have hd : dispatchHostFrame flags len s =
        dispatcher 0 (hostFrame s.params s.env flags len) (loadPbuf 0 len.toNat s) := by
      simp only [dispatchHostFrame, hf]
    rw [hload] at h hd
    simp only [Nat.zero_add] at h hd
    refine ⟨((dispatchHostFrame flags len s).respond 0).forgetPbuf.forgetMux, ?_, ?_, ?_⟩
    · simp only [execDispatch, frameTooLong, decide_eq_false hl, Bool.false_eq_true, if_false]
    · simp only [SameButTransients, State.eraseTransients, after, if_neg hl, hd, h, State.respond, State.emit,
        State.move, State.forgetPbuf, State.forgetMux, List.append_assoc, okResp]
    · simp only [State.forgetPbuf, State.forgetMux, State.respond, State.emit, State.move, hd, h]

/-- Every command completes, in the state `after` gives but for the transient registers (R171). -/
theorem exec_spec (i : Instr) (s : State) : ∃ t, exec i s = .next t ∧ SameButTransients t (after i s) := by
  cases i with
  | nop => exact ⟨_, rfl, rfl⟩
  | blob n => exact execBlob_spec n s
  | frame n => exact execFrame_spec n s
  | sample n => exact ⟨_, execSample_spec n s, rfl⟩
  | dispatch flags len =>
    obtain ⟨t, h, he, _⟩ := execDispatch_spec flags len s
    exact ⟨t, h, he⟩
  | smpStart => exact ⟨_, rfl, rfl⟩
  | readreg idx =>
    simp only [exec, execReadreg, after]
    cases regValue s idx <;> exact ⟨_, rfl, rfl⟩

/-! ### Reading the fields off -/

theorem SameButTransients.fields {t u : State} (h : SameButTransients t u) :
    t.params = u.params ∧ t.seq = u.seq ∧ t.frag = u.frag ∧ t.byteTotal = u.byteTotal ∧
      t.windowStart = u.windowStart ∧ t.timerValid = u.timerValid ∧ t.rateSnapshot = u.rateSnapshot ∧
      t.err = u.err ∧ t.errCause = u.errCause ∧ t.env = u.env ∧ t.pending = u.pending ∧
      t.transfers = u.transfers := by
  simp only [SameButTransients, State.eraseTransients, State.mk.injEq] at h
  obtain ⟨h1, h2, h3, -, -, h4, h5, h6, h7, -, -, h8, h9, h10, h11, h12, -⟩ := h
  exact ⟨h1, h2, h3, h4, h5, h6, h7, h8, h9, h10, h11, h12⟩

/-- What an answered next state is (R171). -/
theorem exec_next {i : Instr} {s t : State} (h : exec i s = .next t) : SameButTransients t (after i s) := by
  obtain ⟨u, hu, he⟩ := exec_spec i s
  rw [h] at hu
  cases hu
  exact he

/-- What a command transfers (R41, R42). -/
def made : Instr → State → List Transfer
  | .nop, _ => [okResp 0]
  | .blob n, s => arrivalTransfers s n ++ (relayedTransfers s.params s.env s.seq n.toNat ++ [okResp 0])
  | .frame n, s => framedTransfers s.params s.env s.seq n.toNat ++ [okResp 0]
  | .sample n, s => arrivalTransfers s n ++ [okResp 0]
  | .dispatch flags len, s =>
    if s.params.maxFramePayload < len.toNat then [.event (.resp 1 3 0)]
    else
      ((List.range len.toNat).map fun k => Transfer.blobRd (BitVec.ofNat 32 k)) ++
        (dispatchTransfers s.params s.env 0 (hostFrame s.params s.env flags len) ++ [okResp 0])
  | .smpStart, _ => [okResp 0]
  | .readreg idx, s =>
    match regValue s idx with
    | none => [.event (.resp 1 4 0)]
    | some v => [okResp v]

theorem after_transfers (i : Instr) (s : State) : (after i s).transfers = s.transfers ++ made i s := by
  cases i with
  | dispatch flags len => simp only [after, made]; split <;> rfl
  | readreg idx => simp only [after, made]; cases regValue s idx <;> rfl
  | _ => rfl

theorem exec_transfers {i : Instr} {s t : State} (h : exec i s = .next t) :
    t.transfers = s.transfers ++ made i s := by
  rw [(exec_next h).fields.2.2.2.2.2.2.2.2.2.2.2, after_transfers]

theorem exec_newTransfers {i : Instr} {s t : State} (h : exec i s = .next t) : newTransfers s t = made i s := by
  rw [newTransfers, exec_transfers h, List.drop_left]

/-- No command touches what stands outside the block, or its build (R9, R37, R52). -/
theorem after_outside (i : Instr) (s : State) :
    (after i s).params = s.params ∧ (after i s).env = s.env ∧ (after i s).pending = s.pending := by
  cases i with
  | blob n => simp [after]
  | sample n => simp [after]
  | dispatch flags len => simp only [after]; split <;> exact ⟨rfl, rfl, rfl⟩
  | readreg idx => simp only [after]; cases regValue s idx <;> exact ⟨rfl, rfl, rfl⟩
  | _ => exact ⟨rfl, rfl, rfl⟩

theorem exec_outside {i : Instr} {s t : State} (h : exec i s = .next t) : SameOutside s t := by
  obtain ⟨h1, -, -, -, -, -, -, -, -, h2, h3, -⟩ := (exec_next h).fields
  obtain ⟨g1, g2, g3⟩ := after_outside i s
  refine ⟨h1.trans g1, h2.trans g2, h3.trans g3, fun a => ?_⟩
  rw [State.readByte, State.readByte, h2, g2]

/-! ### The shapes of the transient registers -/

theorem onPort_fits {w : Nat} (h : 1 ≤ w ∧ w ≤ 64) (v : Word) : fits w (onPort w v) := by
  have h64 : 2 ^ w ≤ 2 ^ 64 := Nat.pow_le_pow_right (by omega) h.2
  have hpos : 0 < 2 ^ w := Nat.two_pow_pos w
  rw [fits, onPort, BitVec.toNat_and, BitVec.toNat_ofNat, Nat.mod_eq_of_lt (by omega),
    Nat.and_two_pow_sub_one_eq_mod]
  exact Nat.mod_lt _ hpos

/-- SNAP holds a list a query can answer (R20, R243). -/
def SnapShape (s : State) : Prop := s.snap.length ≤ 255 ∧ ∀ d ∈ s.snap, fits s.params.destIdW d

theorem forgetMux_snapShape (s : State) : SnapShape s.forgetMux := by
  constructor
  · simp only [State.forgetMux_snap, List.length_map, List.length_take, Config.maxDests]; omega
  · intro d hd
    simp only [State.forgetMux_snap, List.mem_map] at hd
    obtain ⟨v, -, rfl⟩ := hd
    exact onPort_fits s.params.destIdW_range v

theorem forgetPbuf_length (s : State) : s.forgetPbuf.pbuf.length = s.params.maxFramePayload := by simp

/-- FRAMER leaves SNAP and J to its hook. -/
theorem fragments_mux {hook : Nat → Frame → State → State}
    (hh : ∀ i f s, (hook i f s).snap = s.snap ∧ (hook i f s).j = s.j) (n : Nat) (sq : BitVec 5) (count : Nat) :
    ∀ i s, (fragments n sq hook count i s).snap = s.snap ∧ (fragments n sq hook count i s).j = s.j := by
  induction count with
  | zero => intro i s; exact ⟨rfl, rfl⟩
  | succ count ih =>
    intro i s
    rw [fragments]
    obtain ⟨h1, h2⟩ := ih (i + 1) (fragmentBody n sq hook i s)
    rw [h1, h2]
    simp only [fragmentBody, State.setFrag_snap, State.setOffset_snap, State.setFrag_j, State.setOffset_j]
    rw [(hh _ _ _).1, (hh _ _ _).2]
    exact ⟨rfl, rfl⟩

theorem framer_mux {hook : Nat → Frame → State → State}
    (hh : ∀ i f s, (hook i f s).snap = s.snap ∧ (hook i f s).j = s.j) (n : Addr) (s : State) :
    (framer n hook s).snap = s.snap ∧ (framer n hook s).j = s.j := by
  simp only [framer, State.setSeq_snap, State.setSeq_j]
  split
  · simp only [soleFrame]
    rw [(hh _ _ _).1, (hh _ _ _).2]
    exact ⟨rfl, rfl⟩
  · obtain ⟨h1, h2⟩ := fragments_mux hh (countOf n) s.seq (fragmentCount (countOf n) s.params.maxFramePayload) 0
      ((s.setFrag 0).setOffset 0)
    exact ⟨h1, h2⟩

theorem execFrame_mux {n : Addr} {s t : State} (h : exec (.frame n) s = .next t) : SameMux s t := by
  cases h
  obtain ⟨h1, h2⟩ := framer_mux (hook := showFrame) (fun _ _ _ => ⟨rfl, rfl⟩) n s
  exact ⟨h1, h2⟩

theorem afterArrival_transients (c : Addr) (s : State) :
    (afterArrival c s).snap = s.snap ∧ (afterArrival c s).j = s.j ∧ (afterArrival c s).pbuf = s.pbuf := by
  unfold afterArrival
  split
  · exact ⟨rfl, rfl, rfl⟩
  · split <;> exact ⟨rfl, rfl, rfl⟩

/-- Every command leaves PBUF with M bytes and SNAP with a list a query can answer. -/
theorem exec_shapes {i : Instr} {s t : State} (h : exec i s = .next t)
    (hp : s.pbuf.length = s.params.maxFramePayload) (hs : SnapShape s) :
    t.pbuf.length = t.params.maxFramePayload ∧ SnapShape t := by
  have hpar := (exec_outside h).1
  cases i with
  | nop => cases h; exact ⟨hp, hs⟩
  | blob n =>
    obtain ⟨t', ht, -⟩ := execBlob_spec n s
    cases h
    exact ⟨forgetPbuf_length _, forgetMux_snapShape _⟩
  | frame n =>
    have hm := execFrame_mux h
    refine ⟨?_, ?_⟩
    · cases h; exact forgetPbuf_length _
    · rw [SnapShape, hm.1, hpar]; exact hs
  | sample n =>
    rw [exec, execSample_spec] at h
    cases h
    obtain ⟨h1, -, h3⟩ := afterArrival_transients n s
    refine ⟨?_, ?_⟩
    · simp only [after, h3, afterArrival_params, hp]
    · simp only [SnapShape, after, h1, afterArrival_params]; exact hs
  | dispatch flags len =>
    simp only [exec, execDispatch] at h
    split at h
    · cases h; exact ⟨hp, hs⟩
    · cases h
      exact ⟨forgetPbuf_length _, forgetMux_snapShape _⟩
  | smpStart => cases h; exact ⟨hp, hs⟩
  | readreg idx =>
    simp only [exec, execReadreg] at h
    split at h <;> (cases h; exact ⟨hp, hs⟩)

end Sys2Proof.Machine
end

