-- ==== Sys2Proof/Laws/PerInstr.lean ====
section
/-! SUPPORT. Statements about every command as syntax, one lemma for each constructor. -/

namespace Sys2Proof.Laws.EncodedFields

/-- The command's word has that command's fields, which the opcode map reads as it and in which every field that R74
requires to be zero is (R70, R73, R74). -/
def Statement (i : Instr) : Prop :=
  Fields.ofWord (encode i) = i.fields ∧ i.fields.command = some i ∧ i.fields.mustBeZero = true

theorem nop : Statement .nop := ⟨Fields.ofWord_toWord _, rfl, rfl⟩

theorem blob (n : Addr) : Statement (.blob n) := ⟨Fields.ofWord_toWord _, rfl, rfl⟩

theorem frame (n : Addr) : Statement (.frame n) := ⟨Fields.ofWord_toWord _, rfl, rfl⟩

theorem sample (n : Addr) : Statement (.sample n) := ⟨Fields.ofWord_toWord _, rfl, rfl⟩

theorem dispatch (flags len : Byte) : Statement (.dispatch flags len) := ⟨Fields.ofWord_toWord _, rfl, rfl⟩

theorem smpStart : Statement .smpStart := ⟨Fields.ofWord_toWord _, rfl, rfl⟩

theorem readreg (idx : Byte) : Statement (.readreg idx) := ⟨Fields.ofWord_toWord _, rfl, rfl⟩

end Sys2Proof.Laws.EncodedFields
end

