-- ==== Sys2Proof/Laws/Step.lean ====
section
/-! SUPPORT. What running a word and one step can do, said once, and that neither depends on the transient registers. -/

namespace Sys2Proof.Machine

/-- Running a word is running its command or raising its error (R170). -/
theorem runWord_cases {w s t} (h : runWord w s = .next t) :
    (∃ i, decode w = .instr i ∧ exec i s = .next t) ∨ (∃ c, decode w = .error c ∧ t = raise c s) := by
  simp only [runWord] at h
  split at h
  · exact .inl ⟨_, by assumption, h⟩
  · cases h; exact .inr ⟨_, by assumption, rfl⟩

/-- Taking a command error, as one update (R201). -/
theorem raise_eq (c s) : raise c s =
    { s with
      err := true,
      errCause := if s.err then s.errCause else causeCode c,
      transfers := s.transfers ++ [.event (.resp 1 (causeCode c) 0)] } := rfl

/-- A command raises, or it keeps STATUS and answers OK (R201). -/
theorem exec_ok_or_raise {i : Instr} {s t : State} (h : exec i s = .next t) :
    (∃ e, t = raise e s) ∨ (SameStatus s t ∧ ∃ l v, made i s = l ++ [okResp v]) := by
  have hf := (exec_next h).fields
  cases i with
  | nop => cases h; exact .inr ⟨⟨rfl, rfl⟩, [], 0, rfl⟩
  | blob n =>
    refine .inr ⟨⟨?_, ?_⟩, arrivalTransfers s n ++ relayedTransfers s.params s.env s.seq n.toNat, 0, ?_⟩
    · rw [hf.2.2.2.2.2.2.2.1]; simp [after]
    · rw [hf.2.2.2.2.2.2.2.2.1]; simp [after]
    · simp [made]
  | frame n =>
    refine .inr ⟨⟨?_, ?_⟩, _, 0, rfl⟩
    · rw [hf.2.2.2.2.2.2.2.1]; rfl
    · rw [hf.2.2.2.2.2.2.2.2.1]; rfl
  | sample n =>
    refine .inr ⟨⟨?_, ?_⟩, _, 0, rfl⟩
    · rw [hf.2.2.2.2.2.2.2.1]; simp [after]
    · rw [hf.2.2.2.2.2.2.2.2.1]; simp [after]
  | dispatch fl len =>
    by_cases hl : s.params.maxFramePayload < len.toNat
    · left
      simp only [exec, execDispatch, frameTooLong, decide_eq_true hl, if_true] at h
      cases h; exact ⟨_, rfl⟩
    · right
      simp only [after, if_neg hl] at hf
      refine ⟨⟨hf.2.2.2.2.2.2.2.1, hf.2.2.2.2.2.2.2.2.1⟩,
        ((List.range len.toNat).map fun k => Transfer.blobRd (BitVec.ofNat 32 k)) ++
          dispatchTransfers s.params s.env 0 (hostFrame s.params s.env fl len), 0, ?_⟩
      simp only [made, if_neg hl, List.append_assoc]
  | smpStart => cases h; exact .inr ⟨⟨rfl, rfl⟩, [], 0, rfl⟩
  | readreg idx =>
    simp only [exec, execReadreg] at h
    cases hv : regValue s idx with
    | none => rw [hv] at h; cases h; exact .inl ⟨_, rfl⟩
    | some v => rw [hv] at h; cases h; exact .inr ⟨⟨rfl, rfl⟩, [], v, by simp [made, hv]⟩

/-- With every handshake completing (R242) settling changes nothing. -/
theorem settle_none {s : State} {o : Outcome} (h : s.env.stall = none) : settle s o = o := by
  cases o <;> simp [settle, stalls, h]

/-- Every word runs to a next state (R171). -/
theorem runWord_total (w s) : ∃ t, runWord w s = .next t := by
  simp only [runWord]
  split
  · obtain ⟨t, h, -⟩ := exec_spec ‹_› s; exact ⟨t, h⟩
  · exact ⟨_, rfl⟩

/-- Everything a step can do. -/
theorem step_cases {s t} (h : step s = .next t) :
    (s.pending = [] ∧ t = s) ∨
    (∃ w e rest, s.pending = .command w e :: rest ∧ runWord w (accept e rest s) = .next t) ∨
    (∃ rest, s.pending = .reset :: rest ∧ t = applyReset (s.setPending rest)) ∨
    (∃ w e c rest u, s.pending = .resetDuring w e c :: rest ∧ runWord w (accept e rest s) = .next u ∧
      t = applyReset ((accept e rest s).move (((u.transfers.drop s.transfers.length).dropLast).take (cutAt e c)))) := by
  simp only [step] at h
  split at h
  · cases h; exact .inl ⟨by assumption, rfl⟩
  · rename_i w e rest hp
    obtain ⟨u, hu⟩ := runWord_total w (accept e rest s)
    rw [hu] at h
    simp only [settle] at h
    split at h
    · cases h
    · cases h; exact .inr (.inl ⟨w, e, rest, hp, hu⟩)
  · cases h; exact .inr (.inr (.inl ⟨_, by assumption, rfl⟩))
  · rename_i w e c rest hp
    obtain ⟨u, hu⟩ := runWord_total w (accept e rest s)
    rw [hu] at h
    cases h
    exact .inr (.inr (.inr ⟨w, e, c, rest, u, hp, hu, rfl⟩))

/-- No word touches what stands outside the block, or its build (R9, R37, R52). -/
theorem runWord_outside {w s t} (h : runWord w s = .next t) :
    t.params = s.params ∧ t.env = s.env ∧ t.pending = s.pending := by
  rcases runWord_cases h with ⟨i, -, hi⟩ | ⟨e, -, ht⟩
  · have := exec_outside hi; exact ⟨this.1, this.2.1, this.2.2.1⟩
  · subst ht; exact ⟨rfl, rfl, rfl⟩

/-- A word only appends to the transfers. -/
theorem runWord_appends {w s t} (h : runWord w s = .next t) : ∃ l, t.transfers = s.transfers ++ l := by
  rcases runWord_cases h with ⟨i, -, hi⟩ | ⟨e, -, ht⟩
  · exact ⟨_, exec_transfers hi⟩
  · subst ht; exact ⟨_, rfl⟩

theorem afterArrival_window (n s) :
    (afterArrival n s).windowStart = s.windowStart ∨ (afterArrival n s).windowStart = s.env.nowMs := by
  unfold afterArrival; split
  · right; rfl
  · split <;> (left; rfl)

/-- WINDOW_START is kept or takes the clock (R28). -/
theorem runWord_window {w s t} (h : runWord w s = .next t) :
    t.windowStart = s.windowStart ∨ t.windowStart = s.env.nowMs := by
  rcases runWord_cases h with ⟨i, -, hi⟩ | ⟨e, -, ht⟩
  · rw [(exec_next hi).fields.2.2.2.2.1]
    cases i with
    | blob n => exact afterArrival_window n s
    | sample n => exact afterArrival_window n s
    | dispatch a b => left; simp only [after]; split <;> rfl
    | readreg a => left; simp only [after]; cases regValue s a <;> rfl
    | nop => left; rfl
    | frame n => left; rfl
    | smpStart => right; rfl
  · subst ht; left; rfl

theorem arrival_erase (n : Addr) (s : State) :
    (afterArrival n s).eraseTransients = (afterArrival n s.eraseTransients) := by
  unfold afterArrival
  have h1 : windowCloses s.eraseTransients s.eraseTransients.env.nowMs = windowCloses s s.env.nowMs := rfl
  have h2 : s.eraseTransients.timerValid = s.timerValid := rfl
  rw [h1, h2]
  split
  · rfl
  · split <;> rfl

/-- What a command leaves does not depend on the transient registers (R34). -/
theorem after_erase (i : Instr) (s : State) :
    (after i s).eraseTransients = (after i s.eraseTransients).eraseTransients := by
  cases i with
  | blob n =>
    simp only [after]
    rw [← arrival_erase]
    rfl
  | sample n =>
    simp only [after]
    rw [← arrival_erase]
    rfl
  | dispatch a b =>
    simp only [after]
    have : s.eraseTransients.params = s.params := rfl
    rw [this]
    split <;> rfl
  | readreg a =>
    simp only [after]
    have : regValue s.eraseTransients a = regValue s a := rfl
    rw [this]
    cases regValue s a <;> rfl
  | _ => rfl

theorem after_congr {i : Instr} {s s' : State} (h : SameButTransients s s') :
    SameButTransients (after i s) (after i s') := by
  unfold SameButTransients at *
  rw [after_erase, h, ← after_erase]

theorem raise_congr {c} {s s' : State} (h : SameButTransients s s') : SameButTransients (raise c s) (raise c s') := by
  have h1 : ∀ u : State, (raise c u).eraseTransients = (raise c u.eraseTransients) := fun _ => rfl
  unfold SameButTransients at *
  rw [h1, h, ← h1]

theorem accept_congr {e rest} {s s' : State} (h : SameButTransients s s') :
    SameButTransients (accept e rest s) (accept e rest s') := by
  have h1 : ∀ u : State, (accept e rest u).eraseTransients = (accept e rest u.eraseTransients) := fun _ => rfl
  unfold SameButTransients at *
  rw [h1, h, ← h1]

end Sys2Proof.Machine
end

