-- ==== Sys2Proof/Laws/Trace.lean ====
section
/-! SUPPORT. The transfers of a command: what they are, that they are legal, and the frames, reads and
events in them. -/

namespace Sys2Proof.Machine

theorem frames_tile_upto {α : Type} (g : Nat → α) {n M : Nat} (hM : 1 ≤ M) (c : Nat) (hc : c ≤ frameCount n M) :
    (List.range c).flatMap (fun i => (List.range (frameLength n M i)).map fun k => g (i * M + k)) =
      (List.range (min n (c * M))).map g := by
  induction c with
  | zero => simp
  | succ c ih =>
    have h1 := frame_end hM (show c < frameCount n M by omega)
    have h2 := frame_end_le hM (show c < frameCount n M by omega)
    have h3 : min n (c * M) = c * M := by omega
    rw [List.range_succ, List.flatMap_append, ih (by omega), h3, ← h1, List.range_add, List.map_append]
    simp [List.map_map, Function.comp_def]

theorem frameCount_mul {n M : Nat} (hM : 1 ≤ M) : n ≤ frameCount n M * M := by
  unfold frameCount
  split
  · omega
  · exact (fragmentCount_mul hM).1

/-- The frames of a blob tile it: frame by frame is address by address (R107). -/
theorem frames_tile {α : Type} (g : Nat → α) {n M : Nat} (hM : 1 ≤ M) :
    (List.range (frameCount n M)).flatMap (fun i => (List.range (frameLength n M i)).map fun k => g (i * M + k)) =
      (List.range n).map g := by
  rw [frames_tile_upto g hM _ (le_refl _), Nat.min_eq_left (frameCount_mul hM)]

/-- A dispatch transfers its query, resolves and sends only (R153). -/
theorem mem_dispatch {p e k f x} (h : x ∈ dispatchTransfers p e k f) :
    ∃ ev : Event, x = .event ev ∧ ev.ofDispatch = true := by
  simp only [dispatchTransfers, dispatchEvents, List.map_cons, List.mem_cons, List.mem_map, List.mem_flatMap] at h
  rcases h with rfl | ⟨ev, ⟨i, -, hev⟩, rfl⟩
  · exact ⟨_, rfl, rfl⟩
  · refine ⟨_, rfl, ?_⟩
    simp only [destinationEvents, List.mem_cons] at hev
    rcases hev with rfl | hev
    · rfl
    · split at hev
      · cases hev
      · simp only [List.mem_singleton] at hev; subst hev; rfl

theorem mem_frame {p e sq n i x} (h : x ∈ frameTransfers p e sq n i) :
    (∃ a, x = .blobRd a) ∨ x = .event (.frameOut (blobFrame p e sq n i)) := by
  simp only [frameTransfers, List.mem_append, List.mem_map, List.mem_singleton] at h
  rcases h with ⟨k, -, rfl⟩ | rfl
  · exact .inl ⟨_, rfl⟩
  · exact .inr rfl

theorem mem_arrival {s n x} (h : x ∈ arrivalTransfers s n) :
    windowCloses s s.env.nowMs = true ∧ x = .event (.rateOut (arrivalRate s n s.env.nowMs)) := by
  simp only [arrivalTransfers] at h
  split at h
  · exact ⟨by assumption, by simpa using h⟩
  · cases h

/-- The transfers of a command: its response is the last and the only one. -/
theorem made_members (i : Instr) (s : State) : ∃ l st c v, made i s = l ++ [.event (.resp st c v)] ∧
    ∀ x ∈ l, (∃ a, x = .blobRd a) ∨ (∃ f, x = .event (.frameOut f)) ∨
      (∃ ev : Event, x = .event ev ∧ ev.ofDispatch = true) ∨ (∃ n, (i = .blob n ∨ i = .sample n) ∧ x ∈ arrivalTransfers s n) := by
  cases i with
  | nop => exact ⟨[], _, _, _, rfl, by simp⟩
  | smpStart => exact ⟨[], _, _, _, rfl, by simp⟩
  | readreg idx =>
    simp only [made]; split <;> exact ⟨[], _, _, _, rfl, by simp⟩
  | sample n => exact ⟨_, _, _, _, rfl, fun x hx => .inr (.inr (.inr ⟨n, .inr rfl, hx⟩))⟩
  | frame n =>
    refine ⟨_, _, _, _, rfl, fun x hx => ?_⟩
    simp only [framedTransfers, List.mem_flatMap] at hx
    obtain ⟨i, -, hx⟩ := hx
    rcases mem_frame hx with h | h
    · exact .inl h
    · exact .inr (.inl ⟨_, h⟩)
  | blob n =>
    refine ⟨arrivalTransfers s n ++ relayedTransfers s.params s.env s.seq n.toNat, _, _, _,
      by simp only [made, List.append_assoc]; rfl, fun x hx => ?_⟩
    simp only [relayedTransfers, List.mem_append, List.mem_flatMap] at hx
    rcases hx with hx | ⟨i, -, hx | hx⟩
    · exact .inr (.inr (.inr ⟨n, .inl rfl, hx⟩))
    · rcases mem_frame hx with h | h
      · exact .inl h
      · exact .inr (.inl ⟨_, h⟩)
    · exact .inr (.inr (.inl (mem_dispatch hx)))
  | dispatch a b =>
    simp only [made]
    split
    · exact ⟨[], _, _, _, rfl, by simp⟩
    · refine ⟨_, _, _, _, (List.append_assoc _ _ _).symm, fun x hx => ?_⟩
      simp only [List.mem_append, List.mem_map] at hx
      rcases hx with ⟨k, -, rfl⟩ | hx
      · exact .inl ⟨_, rfl⟩
      · exact .inr (.inr (.inl (mem_dispatch hx)))

theorem blobFrame_len {p : Params} {e sq n i} (hi : i < frameCount n p.maxFramePayload) :
    (blobFrame p e sq n i).length.toNat = frameLength n p.maxFramePayload i := by
  have := frameLength_le p.maxFramePayload_pos hi
  have := p.maxFramePayload_le
  simp only [blobFrame, BitVec.toNat_ofNat]; omega

/-- The frames of a blob are legal (R80, R108). -/
theorem blobFrame_legal {p : Params} {e sq n i} (hi : i < frameCount n p.maxFramePayload) :
    (blobFrame p e sq n i).legal p.maxFramePayload := by
  refine ⟨?_, ?_, ?_⟩
  · rw [blobFrame_len hi]; exact frameLength_le p.maxFramePayload_pos hi
  · simp [blobFrame, framePayload]
  · intro k hk hM
    rw [blobFrame_len hi] at hk
    simp [blobFrame, framePayload, hM, Nat.not_lt.2 hk]

/-- The frame of a DISPATCH is legal (R80, R150). -/
theorem hostFrame_legal {p : Params} {e fl len} (h : len.toNat ≤ p.maxFramePayload) :
    (hostFrame p e fl len).legal p.maxFramePayload := by
  refine ⟨h, by simp [hostFrame], ?_⟩
  intro k hk hM
  simp only [hostFrame] at hk
  simp [hostFrame, hM, Nat.not_lt.2 hk]

theorem routeOnPort_legal (p : Params) (r : Route) : (routeOnPort p r).legal p :=
  ⟨onPort_fits p.handleW_range _, onPort_fits p.srcIdW_range _, onPort_fits p.routeIdW_range _⟩

theorem routeOf_legal {p e k j r} (h : routeOf p e k j = some r) : r.legal p := by
  simp only [routeOf] at h
  split at h
  · cases h
  · rw [Option.map_eq_some_iff] at h
    obtain ⟨r', -, rfl⟩ := h
    exact routeOnPort_legal p r'

theorem fits_zero (w) : fits w 0 := by simp [fits]

theorem snapshot_fits {p e k i} : fits p.destIdW ((snapshotOf p e k).getD i 0) := by
  rw [List.getD_eq_getElem?_getD]
  by_cases h : i < (snapshotOf p e k).length
  · rw [List.getElem?_eq_getElem h]
    simp only [snapshotOf, List.getElem_map, Option.getD_some]
    exact onPort_fits p.destIdW_range _
  · rw [List.getElem?_eq_none (by omega)]; exact fits_zero _

theorem dispatch_legal {p e k f} (hf : Frame.legal p.maxFramePayload f) :
    ∀ x ∈ dispatchTransfers p e k f, x.legal p := by
  intro x hx
  simp only [dispatchTransfers, dispatchEvents, List.map_cons, List.mem_cons, List.mem_map, List.mem_flatMap] at hx
  rcases hx with rfl | ⟨ev, ⟨i, -, hev⟩, rfl⟩
  · trivial
  · simp only [destinationEvents, List.mem_cons] at hev
    rcases hev with rfl | hev
    · exact snapshot_fits
    · split at hev
      · cases hev
      · rename_i r hr
        simp only [List.mem_singleton] at hev
        subst hev
        exact ⟨routeOf_legal hr, hf⟩

theorem frameTransfers_legal {p : Params} {e sq n i} (hi : i < frameCount n p.maxFramePayload) :
    ∀ x ∈ frameTransfers p e sq n i, x.legal p := by
  intro x hx
  simp only [frameTransfers, List.mem_append, List.mem_map, List.mem_singleton] at hx
  rcases hx with ⟨k, -, rfl⟩ | rfl
  · trivial
  · exact blobFrame_legal hi

theorem arrival_legal {p s n} : ∀ x ∈ arrivalTransfers s n, x.legal p := by
  intro x hx
  simp only [arrivalTransfers] at hx
  split at hx
  · simp only [List.mem_singleton] at hx; subst hx; trivial
  · cases hx

theorem okResp_legal {p v} : (okResp v).legal p := .inl ⟨rfl, rfl⟩

theorem readsOf_append (a b) : readsOf (a ++ b) = readsOf a ++ readsOf b := by simp [readsOf]

theorem readsOf_flatMap {f : Nat → List Transfer} (l : List Nat) :
    readsOf (l.flatMap f) = l.flatMap fun i => readsOf (f i) := by
  induction l with
  | nil => rfl
  | cons a l ih => simp only [List.flatMap_cons, readsOf_append, ih]

theorem reads_dispatch {p e k f} : readsOf (dispatchTransfers p e k f) = [] := by
  rw [readsOf, List.filterMap_eq_nil_iff]
  intro x hx
  obtain ⟨ev, rfl, -⟩ := mem_dispatch hx
  rfl

theorem reads_frame {p : Params} {e sq n i} : readsOf (frameTransfers p e sq n i) =
    (List.range (frameLength n p.maxFramePayload i)).map fun k => BitVec.ofNat 32 (i * p.maxFramePayload + k) := by
  simp [frameTransfers, readsOf, List.filterMap_map, Function.comp_def, Transfer.read?]

theorem reads_arrival {s n} : readsOf (arrivalTransfers s n) = [] := by
  rw [readsOf, List.filterMap_eq_nil_iff]
  intro x hx
  rw [(mem_arrival hx).2]; rfl

theorem framesOf_append (a b) : framesOf (a ++ b) = framesOf a ++ framesOf b := by simp [framesOf]

theorem framesOf_flatMap {f : Nat → List Transfer} (l : List Nat) :
    framesOf (l.flatMap f) = l.flatMap fun i => framesOf (f i) := by
  induction l with
  | nil => rfl
  | cons a l ih => simp only [List.flatMap_cons, framesOf_append, ih]

theorem frames_dispatch {p e k f} : framesOf (dispatchTransfers p e k f) = [] := by
  rw [framesOf, List.filterMap_eq_nil_iff]
  intro x hx
  obtain ⟨ev, rfl, hd⟩ := mem_dispatch hx
  cases ev <;> first | rfl | cases hd

theorem frames_frame {p : Params} {e sq n i} : framesOf (frameTransfers p e sq n i) = [blobFrame p e sq n i] := by
  simp [frameTransfers, framesOf, List.filterMap_map]

theorem frames_arrival {s n} : framesOf (arrivalTransfers s n) = [] := by
  rw [framesOf, List.filterMap_eq_nil_iff]
  intro x hx
  rw [(mem_arrival hx).2]

/-- The frames a framing command shows (R102). -/
theorem frames_made {i : Instr} {n s} (h : i = .frame n ∨ i = .blob n) :
    framesOf (made i s) =
      (List.range (frameCount n.toNat s.params.maxFramePayload)).map (blobFrame s.params s.env s.seq n.toNat) := by
  have hok : framesOf [okResp 0] = [] := rfl
  rcases h with rfl | rfl
  · simp only [made, framedTransfers, framesOf_append, hok, framesOf_flatMap, frames_frame, List.append_nil]
    exact List.map_eq_flatMap.symm
  · simp only [made, relayedTransfers, framesOf_append, hok, framesOf_flatMap, frames_frame, frames_dispatch,
      frames_arrival, List.append_nil, List.nil_append]
    exact List.map_eq_flatMap.symm

/-- The valid bytes of frame i (R104). -/
theorem valid_blobFrame {p : Params} {e sq n i} (hi : i < frameCount n p.maxFramePayload) :
    (blobFrame p e sq n i).valid =
      (List.range (frameLength n p.maxFramePayload i)).map fun k => Memory.read e.blob (i * p.maxFramePayload + k) := by
  have hl := frameLength_le p.maxFramePayload_pos hi
  have : (blobFrame p e sq n i).payload = framePayload e n p.maxFramePayload i := rfl
  rw [Frame.valid, blobFrame_len hi, this, framePayload, map_range_padded _ hl, List.take_left']
  simp

theorem traceOf_append (a b) : traceOf (a ++ b) = traceOf a ++ traceOf b := by simp [traceOf]

theorem traceOf_events (l : List Event) : traceOf (l.map .event) = l := by
  simp [traceOf, List.filterMap_map, Function.comp_def, Transfer.event?]

theorem traceOf_reads {α} (f : α → Addr) (l : List α) : traceOf (l.map fun k => .blobRd (f k)) = [] := by
  simp [traceOf, List.filterMap_map, Function.comp_def, Transfer.event?]

/-- Byte k of a bus number (R81). -/
theorem busNumber_at (l : List Byte) : ∀ k b, l[k]? = some b → busNumber l / 2^(8*k) % 256 = b.toNat := by
  induction l with
  | nil => intro k b h; simp at h
  | cons a l ih =>
    intro k b h
    have ha := a.isLt
    cases k with
    | zero =>
      simp at h; subst h
      simp only [busNumber]; omega
    | succ k =>
      simp only [List.getElem?_cons_succ] at h
      rw [← ih k b h, busNumber, show 8 * (k+1) = 8 + 8*k by omega, Nat.pow_add, ← Nat.div_div_eq_div_mul]
      congr 2
      omega

end Sys2Proof.Machine
end

