-- ==== Sys2Proof/Tests/Slice0.lean ====
section
/-! SUPPORT. Tests whose expected results are the vectors of spec/95_test_vectors.md or computed from the rules by hand, and
a witness for the hypotheses of every statement that has some. -/

namespace Sys2Proof.Tests

open Sys2Proof Sys2Proof.Machine

/-! ### WellFormed: R75, item 3 -/

/-- 95_test_vectors.md, Errors: DISPATCH 0x00, 181 with M = 180. -/
theorem test_wellFormed_refuses_long_dispatch :
    (Instr.dispatch 0 181).wellFormed 180 = false ∧ (Instr.dispatch 0 180).wellFormed 180 = true := by decide

/-- 95_test_vectors.md, Errors: READREG 8 and READREG 0xFF. -/
theorem test_wellFormed_refuses_bad_index :
    (Instr.readreg 8).wellFormed 180 = false ∧ (Instr.readreg 0xFF).wellFormed 180 = false ∧
      (Instr.readreg 7).wellFormed 180 = true := by decide

/-- The five commands R75 puts no value check on. -/
theorem test_wellFormed_accepts_the_rest :
    Instr.nop.wellFormed 1 = true ∧ (Instr.blob 0xFFFFFFFF).wellFormed 1 = true ∧
      (Instr.frame 0xFFFFFFFF).wellFormed 1 = true ∧ (Instr.sample 0xFFFFFFFF).wellFormed 1 = true ∧
      Instr.smpStart.wellFormed 1 = true := by decide

/-! ### Decoding: words written out field by field, `N ++ RSV1 ++ B ++ A ++ RSV0 ++ OP` (R70) -/

theorem test_decode_nop : decode (0#32 ++ 0#8 ++ 0#8 ++ 0#8 ++ 0x0#4 ++ 0x0#4) = .instr .nop := by decide
theorem test_decode_blob : decode (450#32 ++ 0#8 ++ 0#8 ++ 0#8 ++ 0x0#4 ++ 0x1#4) = .instr (.blob 450) := by decide
theorem test_decode_frame :
    decode (0xFFFFFFFF#32 ++ 0#8 ++ 0#8 ++ 0#8 ++ 0x0#4 ++ 0x2#4) = .instr (.frame 0xFFFFFFFF) := by decide
theorem test_decode_sample : decode (500#32 ++ 0#8 ++ 0#8 ++ 0#8 ++ 0x0#4 ++ 0x3#4) = .instr (.sample 500) := by decide
theorem test_decode_dispatch :
    decode (0#32 ++ 0#8 ++ 90#8 ++ 0x19#8 ++ 0x0#4 ++ 0x4#4) = .instr (.dispatch 0x19 90) := by decide
theorem test_decode_smpStart : decode (0#32 ++ 0#8 ++ 0#8 ++ 0#8 ++ 0x0#4 ++ 0x5#4) = .instr .smpStart := by decide
theorem test_decode_readreg : decode (0#32 ++ 0#8 ++ 0#8 ++ 7#8 ++ 0x0#4 ++ 0x6#4) = .instr (.readreg 7) := by decide

/-- 95_test_vectors.md, Errors: the words of cause 1, RSV0 nonzero among them (R206). -/
theorem test_decode_reserved_opcodes :
    decode 0x0000000000000007 = .error .reservedOpcode ∧ decode 0x000000000000000F = .error .reservedOpcode ∧
      decode 0x00000000000000F7 = .error .reservedOpcode := by decide

/-- 95_test_vectors.md, Errors: the words of cause 2. -/
theorem test_decode_reserved_fields :
    decode 0x0000000000000010 = .error .reservedField ∧ decode 0x0000000001000000 = .error .reservedField ∧
      decode 0x0000000000000100 = .error .reservedField ∧ decode 0x0000000500000101 = .error .reservedField ∧
      decode 0x0000000000010002 = .error .reservedField ∧ decode 0x0000000000000103 = .error .reservedField ∧
      decode 0x0000000100000004 = .error .reservedField ∧ decode 0x0000000100000005 = .error .reservedField ∧
      decode 0x0000000000010006 = .error .reservedField ∧ decode 0x0000000100B50004 = .error .reservedField := by
  decide

theorem test_decodeTableWord :
    decodeTableWord 64 0x5A1904 = some (.dispatch 0x19 90) ∧ decodeTableWord 64 0x7 = none ∧
      decodeTableWord 8 0x2 = some (.frame 0) := by decide

/-! ### Assembler (R85) -/

theorem test_assemble_dispatch_line :
    assembleText ['D', 'I', 'S', 'P', 'A', 'T', 'C', 'H', ' ', '0', 'x', '1', '9', ',', ' ', '9', '0', ' ', ';', 'x'] =
      some (some 0x00000000005A1904) := by decide

theorem test_assemble_index_name :
    assembleText ['R', 'E', 'A', 'D', 'R', 'E', 'G', ' ', 'S', 'T', 'A', 'T', 'U', 'S'] =
      some (some 0x0000000000000706) := by decide

theorem test_assemble_refuses_out_of_range :
    assemble (.frame 4294967296) = none ∧ assemble (.dispatch 256 0) = none ∧ assemble (.readreg 256) = none ∧
      assemble (.dispatch 0 181) = some 0x0000000000B50004 := by decide

/-! ### Small states -/

/-- A build with M = 4. -/
def build4 : Params := ⟨4, 16, 16, 8, 8, by decide, by decide, by decide, by decide, by decide, by decide⟩

/-- The BIS of V-F13: bytes 0..8 are 10 11 12 13 14 15 16 17 18. -/
def blob9 : Memory :=
  [(0, 0x10), (1, 0x11), (2, 0x12), (3, 0x13), (4, 0x14), (5, 0x15), (6, 0x16), (7, 0x17), (8, 0x18)]

/-- The reset state of a build with M = 4, that BIS at the port. -/
def small : State := { State.reset with params := build4, env := { Env.idle with blob := blob9 } }

/-- The trace a meaning or a step shows from a state without transfers. -/
def shown : Outcome → List Event
  | .next t => traceOf t.transfers
  | _ => []

/-- The registers a meaning or a step leaves: SEQ, FRAG, BYTE_TOTAL, WINDOW_START, RATE_SNAPSHOT. -/
def left : Outcome → Option (BitVec 5 × BitVec 2 × Word × Word × Word)
  | .next t => some (t.seq, t.frag, t.byteTotal, t.windowStart, t.rateSnapshot)
  | _ => none

/-- A state with the sampler running: TIMER_VALID = 1 with WINDOW_START, BYTE_TOTAL and the clock. -/
def sampling (start total now : Word) : State :=
  { small with timerValid := true, windowStart := start, byteTotal := total, env := { small.env with nowMs := now } }

/-- The state of the NOP and READREG vectors. -/
def reading : State :=
  { State.reset with
    seq := 17, frag := 2, byteTotal := 123, windowStart := 456, timerValid := true, rateSnapshot := 789,
    err := true, errCause := 3 }

/-! ### One command each -/

/-- V-F13. -/
theorem test_frame_splits_nine_bytes :
    shown (exec (.frame 9) small) =
      [.frameOut ⟨4, 0x01, [0x10, 0x11, 0x12, 0x13]⟩, .frameOut ⟨4, 0x03, [0x14, 0x15, 0x16, 0x17]⟩,
       .frameOut ⟨1, 0x05, [0x18, 0x00, 0x00, 0x00]⟩, .resp 0 0 0] ∧
      left (exec (.frame 9) small) = some (1, 3, 0, 0, 0) := by decide

/-- V-F14 with M = 4 and length 3 (R102, R103, R105): unfragmented, SEQ = 2 gives flags 0x10, FRAG is reset. -/
theorem test_frame_resets_frag :
    shown (exec (.frame 3) { small with seq := 2, frag := 3 }) =
      [.frameOut ⟨3, 0x10, [0x10, 0x11, 0x12, 0x00]⟩, .resp 0 0 0] ∧
      left (exec (.frame 3) { small with seq := 2, frag := 3 }) = some (3, 0, 0, 0, 0) := by decide

/-- V-S5: elapsed 1001 publishes floor(1000 * 1000 / 1001). -/
theorem test_sample_publishes :
    shown (exec (.sample 200) (sampling 1000 800 2001)) = [.rateOut 999, .resp 0 0 0] ∧
      left (exec (.sample 200) (sampling 1000 800 2001)) = some (0, 0, 0, 2001, 999) := by decide

/-- V-S9: the product is exact. -/
theorem test_sample_exact_product :
    shown (exec (.sample 5) (sampling 0 0xFFFFFFFFFFFFFFFA 1001)) = [.rateOut 0xFFBE878B6170458E, .resp 0 0 0] := by
  decide

/-- V-S11: RATE stays 9. -/
theorem test_smpStart_discards :
    shown (exec .smpStart { sampling 100 777 300 with rateSnapshot := 9 }) = [.resp 0 0 0] ∧
      left (exec .smpStart { sampling 100 777 300 with rateSnapshot := 9 }) = some (0, 0, 0, 300, 9) := by decide

/-- V-D1 with M = 4 and length 2: the second destination is unresolved. -/
theorem test_dispatch_skips_unresolved :
    shown (exec (.dispatch 0x19 2)
      { small with env := { small.env with queries := [[⟨5, some ⟨7, 1, 10⟩⟩, ⟨6, none⟩, ⟨7, some ⟨9, 1, 12⟩⟩]] } }) =
      [.destQuery, .resolve 0 5, .send 0 ⟨7, 1, 10⟩ ⟨2, 0x19, [0x10, 0x11, 0, 0]⟩, .resolve 1 6, .resolve 2 7,
       .send 2 ⟨9, 1, 12⟩ ⟨2, 0x19, [0x10, 0x11, 0, 0]⟩, .resp 0 0 0] := by decide

/-- The length check (R204): 5 exceeds M = 4. -/
theorem test_dispatch_too_long : shown (exec (.dispatch 0x09 5) small) = [.resp 1 3 0] := by decide

/-- V-B1 with M = 4 and length 5, TIMER_VALID = 0: two frames, each with its own query (R154). -/
theorem test_blob_queries_each_frame :
    shown (exec (.blob 5)
      { small with env := { small.env with queries := [[⟨5, some ⟨7, 1, 10⟩⟩], [⟨6, some ⟨8, 1, 11⟩⟩]] } }) =
      [.frameOut ⟨4, 0x01, [0x10, 0x11, 0x12, 0x13]⟩, .destQuery, .resolve 0 5,
       .send 0 ⟨7, 1, 10⟩ ⟨4, 0x01, [0x10, 0x11, 0x12, 0x13]⟩,
       .frameOut ⟨1, 0x03, [0x14, 0, 0, 0]⟩, .destQuery, .resolve 0 6,
       .send 0 ⟨8, 1, 11⟩ ⟨1, 0x03, [0x14, 0, 0, 0]⟩, .resp 0 0 0] := by decide

/-- V-B3 with M = 4 and length 3: the rate first (R173), floor((1997 + 3) * 1000 / 2000). -/
theorem test_blob_rate_comes_first :
    shown (exec (.blob 3) (sampling 0 1997 2000)) =
      [.rateOut 1000, .frameOut ⟨3, 0x00, [0x10, 0x11, 0x12, 0]⟩, .destQuery, .resp 0 0 0] ∧
      left (exec (.blob 3) (sampling 0 1997 2000)) = some (1, 0, 0, 2000, 1000) := by decide

/-- The NOP vector. -/
theorem test_nop : shown (exec .nop reading) = [.resp 0 0 0] := by decide

/-- The READREG vectors. -/
theorem test_readreg_map :
    (List.range 8).map (fun k => shown (exec (.readreg (BitVec.ofNat 8 k)) reading)) =
      [[.resp 0 0 17], [.resp 0 0 2], [.resp 0 0 180], [.resp 0 0 123], [.resp 0 0 456], [.resp 0 0 1],
       [.resp 0 0 789], [.resp 0 0 49]] := by decide

/-- READREG 8 after cause 1: response cause 4. -/
theorem test_readreg_bad_index : shown (exec (.readreg 8) { small with err := true, errCause := 1 }) = [.resp 1 4 0] := by
  decide

/-! ### One step -/

/-- P3, line 1: `.cmd 0x7`. -/
theorem test_step_raises : shown (step (State.reset.withFetchWord 64 0x7)) = [.resp 1 1 0] := by decide

/-- The first command after reset (R231): READREG MAXP in the default build. -/
theorem test_step_first_command : shown (step (State.reset.withFetchWord 64 0x206)) = [.resp 0 0 180] := by decide

/-- R232: a FRAME cut after its second transfer leaves two reads and no response. -/
theorem test_step_reset_during :
    (match step { small with pending := [.resetDuring 0x0000000900000002 small.env 2] } with
      | .next t => some (t.transfers, t.seq)
      | _ => none) = some ([.blobRd 0, .blobRd 1], 0) := by decide

/-- R244: a FRAME whose sixth transfer never completes is stuck; a NOP makes one transfer only and completes. -/
theorem test_step_stuck :
    (match step { small with pending := [.command 0x0000000900000002 { small.env with stall := some 5 }] } with
      | .fault f => some f
      | _ => none) = some .handshakeNeverCompletes ∧
      shown (step { small with pending := [.command 0 { small.env with stall := some 1 }] }) = [.resp 0 0 0] := by decide

/-- R81 with M = 4: length, flags, then the payload. -/
theorem test_frame_bus : (Frame.mk 1 0x05 [0x18, 0, 0, 0]).bus = 0x000000180501 := by decide

/-! ### A write in the canonical list -/

theorem test_memory_write_zero_removes :
    Memory.write [(0, 1), (3, 2)] 3 0 = [(0, 1)] ∧ Memory.write [(3, 2)] 0 1 = [(0, 1), (3, 2)] := by decide

/-! ### Witnesses: states and operands that meet the hypotheses of each statement -/

theorem witness_EncodeOfDecodeIsTheWord : decode 0x00000000005A1904 = .instr (.dispatch 0x19 90) := by decide

theorem witness_ReservedOpcodeRaisesCauseOne :
    7 ≤ (0x0000000000000007 : Word).toNat % 16 ∧ 7 ≤ (0xFFFFFFFFFFFFFFFF : Word).toNat % 16 := by decide

/-- RSV0, RSV1, A, B and N each the one nonzero field, at the edges of the opcodes that must have it zero. -/
theorem witness_NonzeroReservedFieldRaisesCauseTwo :
    ((0x14 : Word).toNat % 16 ≤ 6 ∧ (0x14 : Word).toNat / 2 ^ 4 % 16 ≠ 0) ∧
      ((0x01000006 : Word).toNat % 16 ≤ 6 ∧ (0x01000006 : Word).toNat / 2 ^ 24 % 256 ≠ 0) ∧
      ((0x0105 : Word).toNat % 16 = 5 ∧ (0x0105 : Word).toNat / 2 ^ 8 % 256 ≠ 0) ∧
      ((0x010006 : Word).toNat % 16 = 6 ∧ (0x010006 : Word).toNat / 2 ^ 16 % 256 ≠ 0) ∧
      ((0x100000004 : Word).toNat % 16 = 4 ∧ (0x100000004 : Word).toNat / 2 ^ 32 ≠ 0) := by decide

theorem witness_WordPassingTheFieldChecksExecutes :
    (0xFFFF04 : Word).toNat % 16 = 4 ∧ (0xFFFF04 : Word).toNat / 2 ^ 4 % 16 = 0 ∧
      (0xFFFF04 : Word).toNat / 2 ^ 24 % 256 = 0 ∧ (0xFFFF04 : Word).toNat / 2 ^ 32 = 0 := by decide

theorem witness_ValueChecksDecideTheResponse :
    (Instr.dispatch 0xFF 4).wellFormed small.params.maxFramePayload = true ∧
      (Instr.dispatch 0xFF 5).wellFormed small.params.maxFramePayload = false ∧
      (Instr.readreg 7).wellFormed small.params.maxFramePayload = true ∧
      (Instr.readreg 8).wellFormed small.params.maxFramePayload = false := by decide

/-- The last transfer of what a meaning or a step leaves. -/
def lastOf : Outcome → Option Transfer
  | .next t => t.transfers.getLast?
  | _ => none

theorem witness_CommandErrorChangesOnlyStatus :
    ∃ t, runWord 0x7 small = .next t ∧ t.transfers.getLast? = some (.event (.resp 1 1 0)) := ⟨_, rfl, by decide⟩

/-- An error when none stands, an error and an OK command when one stands, and a reset. -/
theorem witness_StatusIsStickyAndKeepsTheFirstCause :
    (small.err = false ∧ lastOf (runWord 0x7 small) = some (.event (.resp 1 1 0))) ∧
      (reading.err = true ∧ lastOf (runWord 0x906 reading) = some (.event (.resp 1 4 0))) ∧
      lastOf (runWord 0x706 reading) = some (.event (.resp 0 0 49)) ∧
      ∃ t, step { reading with pending := [.reset] } = .next t ∧ reading.err = true :=
  ⟨by decide, by decide, by decide, _, rfl, by decide⟩

theorem witness_StepRunsTheDecodedCommand :
    decode 0x0000000900000002 = .instr (.frame 9) ∧ small.env.handshakesComplete ∧
      ({ small with pending := [.command 0x0000000900000002 small.env] } : State).pending =
        .command 0x0000000900000002 small.env :: [] := by decide

theorem witness_StepRaisesTheErrorOfABadWord :
    decode 0x0000000000000010 = .error .reservedField ∧ small.env.handshakesComplete ∧
      ({ small with pending := [.command 0x10 small.env] } : State).pending = .command 0x10 small.env :: [] := by decide

theorem witness_StepWithNothingPresentedKeepsTheState : State.reset.pending = [] := rfl

/-- FRAME 9 makes 13 transfers with M = 4: the last of them, and the first one after, stalled. -/
theorem witness_StalledHandshakeIsAStuckCommand :
    ∃ t, runWord 0x0000000900000002 { small with env := { small.env with stall := some 12 } } = .next t ∧
      12 < (newTransfers small t).length ∧ (newTransfers small t).length ≤ 13 := ⟨_, rfl, by decide, by decide⟩

theorem witness_ResetClearsEveryPersistentRegister :
    ({ reading with pending := [.reset] } : State).pending = .reset :: [] := rfl

theorem witness_ResetDuringACommandKeepsAPrefixWithoutResp :
    ({ small with pending := [.resetDuring 0x0000000900000002 small.env 2] } : State).pending =
        .resetDuring 0x0000000900000002 small.env 2 :: [] ∧
      ∃ u, runWord 0x0000000900000002 small = .next u := ⟨rfl, _, rfl⟩

/-- A state with every register set and a command to come. -/
def busy : State :=
  { reading with
    pbuf := List.replicate 180 0xFF, snap := [1, 2], env := { Env.idle with blob := blob9, nowMs := 456 },
    pending := [.command 0x0000000900000001 { Env.idle with blob := blob9, nowMs := 457 }] }

theorem witness_EveryStepKeepsTheRegisterInvariant : BlockInv busy ∧ ∃ t, step busy = .next t := by
  refine ⟨⟨List.length_replicate, by decide, ?_, by decide, by decide, by decide, by decide⟩, _, rfl⟩
  intro d hd
  simp only [busy, List.mem_cons, List.not_mem_nil, or_false] at hd
  rcases hd with rfl | rfl <;> show _ < _ <;> decide

theorem witness_EveryStepShowsOnlyLegalEvents : TraceLegal busy ∧ ∃ t, step busy = .next t :=
  ⟨fun _ hx => absurd hx (List.not_mem_nil), _, rfl⟩

theorem witness_EveryStepKeepsTheParameters : ∃ t, step busy = .next t := ⟨_, rfl⟩

theorem witness_EveryStepOnlyAppendsTransfers : ∃ t, step busy = .next t := ⟨_, rfl⟩

theorem witness_EveryStepKeepsTheClockAboveTheWindow :
    ClockKept busy ∧ (∃ t, step busy = .next t) ∧ ∃ w e rest, busy.pending = .command w e :: rest :=
  ⟨⟨by decide, trivial⟩, ⟨_, rfl⟩, _, _, _, rfl⟩

theorem witness_OnlyFramingWritesSeqAndFrag :
    framesBlob (.dispatch 0 4) = false ∧ ∃ t, exec (.dispatch 0 4) small = .next t := ⟨rfl, _, rfl⟩

theorem witness_OnlySmpStartStartsTheTimer :
    (small.timerValid = false ∧ decode 0x0000000300000003 ≠ .instr .smpStart ∧
        ∃ t, runWord 0x0000000300000003 small = .next t) ∧
      (decode 0x5 = .instr .smpStart ∧ ∃ t, runWord 0x5 small = .next t) ∧
      ∃ t, step { reading with pending := [.reset] } = .next t ∧ reading.timerValid = true ∧ t.timerValid = false :=
  ⟨⟨by decide, by decide, _, rfl⟩, ⟨by decide, _, rfl⟩, _, rfl, rfl, rfl⟩

theorem witness_RateSnapshotIsTheLastPublishedRate :
    (∃ t, exec (.sample 200) (sampling 1000 800 2001) = .next t ∧
        .event (.rateOut 999) ∈ newTransfers (sampling 1000 800 2001) t) ∧
      ∃ t, exec (.sample 200) (sampling 1000 800 2000) = .next t ∧
        ∀ r, .event (.rateOut r) ∉ newTransfers (sampling 1000 800 2000) t := by
  refine ⟨⟨_, rfl, by decide⟩, _, rfl, fun r h => ?_⟩
  have h' : Transfer.event (.rateOut r) ∈ [Transfer.event (.resp 0 0 0)] := h
  simp at h'

/-- Two states that differ in every transient register. -/
theorem witness_TransientRegistersAreNotObservable :
    SameButTransients busy { busy with offset := 7, pbuf := List.replicate 180 0x55, snap := [], j := 9 } ∧
      busy ≠ { busy with offset := 7, pbuf := List.replicate 180 0x55, snap := [], j := 9 } ∧
      ∃ t, step busy = .next t := by
  refine ⟨rfl, fun h => ?_, _, rfl⟩
  have := congrArg State.offset h
  exact absurd this (by decide)

theorem witness_OnlyThreeCommandsReadTheClock :
    readsClock (.frame 9) = false ∧ ∃ t, exec (.frame 9) small = .next t := ⟨rfl, _, rfl⟩

theorem witness_BisReadsOfEachCommand : ∃ t, runWord 0x0000000900000002 small = .next t := ⟨_, rfl⟩

/-- A BIS that differs at the first address past the input. -/
theorem witness_BytesPastTheInputDoNotMatter :
    (∀ a, a < inputLength small.params.maxFramePayload (.frame 1) → Memory.read [(0, 0x10), (1, 0xFF)] a = small.readByte a) ∧
      Memory.read [(0, 0x10), (1, 0xFF)] 1 ≠ small.readByte 1 ∧ ∃ t, exec (.frame 1) small = .next t :=
  ⟨by decide, by decide, _, rfl⟩

theorem witness_UnitsReadOnlyTheirOwnRegisters :
    (∃ t t', exec (.blob 3) (sampling 0 7 5) = .next t ∧ exec (.blob 3) { sampling 0 7 5 with seq := 9 } = .next t' ∧
        SameSampler (sampling 0 7 5) { sampling 0 7 5 with seq := 9 }) ∧
      ∃ t t', exec (.blob 3) (sampling 0 7 5) = .next t ∧ exec (.blob 3) { sampling 0 7 5 with byteTotal := 8 } = .next t' ∧
        SameFramer (sampling 0 7 5) { sampling 0 7 5 with byteTotal := 8 } :=
  ⟨⟨_, _, rfl, rfl, rfl, rfl, rfl, rfl⟩, _, _, rfl, rfl, rfl, rfl⟩

theorem witness_NopOnlyResponds : (0x100000000 : Word).toNat % 16 = 0 ∧ (0x100000000 : Word) ≠ 0 := by decide

theorem witness_ReadregAnswersTheRegisterMap : 8 ≤ (0x08 : Byte).toNat ∧ 8 ≤ (0xFF : Byte).toNat := by decide

theorem witness_SmpStartRestartsTheWindow : (0x105 : Word).toNat % 16 = 5 ∧ (0x105 : Word) ≠ 5 := by decide

/-- Stopped; running with exactly 1000 ms elapsed; running with 1001. -/
theorem witness_SampleAccountsForAnArrival :
    small.timerValid = false ∧
      ((sampling 1000 800 2000).timerValid = true ∧
        (sampling 1000 800 2000).env.nowMs.toNat - (sampling 1000 800 2000).windowStart.toNat ≤ 1000) ∧
      ((sampling 1000 800 2001).timerValid = true ∧
        1000 < (sampling 1000 800 2001).env.nowMs.toNat - (sampling 1000 800 2001).windowStart.toNat) := by decide

theorem witness_FramesCarryExactlyTheBlob :
    (∃ t, exec (.frame 9) small = .next t) ∧ ∃ t, exec (.blob 9) small = .next t := ⟨⟨_, rfl⟩, _, rfl⟩

/-- A fragmented blob with a last frame of one byte, and the empty frame. -/
theorem witness_FrameLengthsStayInBounds :
    (∃ t, exec (.frame 9) small = .next t ∧ small.params.maxFramePayload ≤ (9 : Addr).toNat ∧
        (⟨1, 0x05, [0x18, 0, 0, 0]⟩ : Frame) ∈ framesOf (newTransfers small t)) ∧
      ∃ t, exec (.blob 0) small = .next t ∧ (⟨0, 0, [0, 0, 0, 0]⟩ : Frame) ∈ framesOf (newTransfers small t) :=
  ⟨⟨_, rfl, by decide, by decide⟩, _, rfl, by decide⟩

theorem witness_EmptyBlobIsOneEmptyFrame : ∃ i : Instr, i = .frame 0 ∨ i = .blob 0 := ⟨.blob 0, .inr rfl⟩

theorem witness_BlobOfExactlyOnePayloadIsFragmented : (4 : Addr).toNat = small.params.maxFramePayload := by decide

/-- A blob of 17 bytes with M = 4 has five frames. -/
theorem witness_FlagsRepeatEveryFourFragments :
    ∃ t, exec (.frame 17) small = .next t ∧ ((framesOf (newTransfers small t))[0]?).isSome = true ∧
      ((framesOf (newTransfers small t))[0 + 4]?).isSome = true := ⟨_, rfl, by decide, by decide⟩

theorem witness_BlobOf450BytesMakesThreeFrames : State.reset.params.maxFramePayload = 180 := rfl

theorem witness_SeqCountsFramedBlobsModulo32 :
    (∀ i ∈ List.replicate 32 (Instr.frame 0), framesBlob i = true) ∧ (List.replicate 32 (Instr.frame 0)).length = 32 := by
  decide

theorem witness_DispatchSendsTheHostFrame :
    (4 : Byte).toNat ≤ small.params.maxFramePayload ∧ (0 : Byte).toNat ≤ small.params.maxFramePayload := by decide

theorem witness_DispatchTooLongRaisesCauseThree : small.params.maxFramePayload < (5 : Byte).toNat := by decide

theorem witness_DispatchSendsOncePerResolvedDestination : (4 : Byte).toNat ≤ small.params.maxFramePayload := by decide

theorem witness_DispatchToNoDestinationOnlyQueries :
    (4 : Byte).toNat ≤ small.params.maxFramePayload ∧ small.env.queries.getD 0 [] = [] := by decide

/-- A dispatch that sends, and another state with the same parameters and draws. -/
theorem witness_DispatcherKeepsTheFrameAndTheRegisters :
    .event (.send 0 ⟨7, 1, 10⟩ ⟨1, 2, [3, 0, 0, 0]⟩) ∈
        newTransfers { small with env := { small.env with queries := [[⟨5, some ⟨7, 1, 10⟩⟩]] } }
          (dispatcher 0 ⟨1, 2, [3, 0, 0, 0]⟩ { small with env := { small.env with queries := [[⟨5, some ⟨7, 1, 10⟩⟩]] } }) ∧
      (sampling 1 2 0).params = small.params ∧ (sampling 1 2 0).env = small.env := by decide

theorem witness_FrameBusPlacesEachByte :
    (Frame.mk 1 0x05 [0x18, 0, 0, 0]).bytes[5]? = some 0 ∧ (Frame.mk 1 0x05 [0x18, 0, 0, 0]).legal 4 :=
  ⟨by decide, by decide, by decide, fun k h1 h2 => by
    have h1 : 1 ≤ k := h1
    match k, h1, h2 with
    | 1, _, _ => rfl
    | 2, _, _ => rfl
    | 3, _, _ => rfl⟩

theorem witness_HostWriteOfTheBisReadsBack : Memory.wf blob9 = true ∧ 2 ^ 32 - 1 < 2 ^ 32 := by decide

theorem witness_OnlyLegalParametersAreBuilt :
    Params.build 4 16 16 8 8 = some build4 ∧ (Params.build 255 64 64 64 64).isSome = true ∧
      (Params.build 1 1 1 1 1).isSome = true ∧ Params.build 0 16 16 8 8 = none ∧ Params.build 256 16 16 8 8 = none := by
  decide

end Sys2Proof.Tests
end

/-! ## The two units' registers (R16, R138) and the build's parameters (R8) -/

namespace Sys2Proof

/-! ### Building the parameters -/

/-- A build has the parameters asked for. -/
theorem Params.fields_of_build {m d h s r : Nat} {p : Params} (hb : Params.build m d h s r = some p) :
    p.maxFramePayload = m ∧ p.destIdW = d ∧ p.handleW = h ∧ p.srcIdW = s ∧ p.routeIdW = r := by
  unfold Params.build at hb
  split_ifs at hb
  cases hb
  exact ⟨rfl, rfl, rfl, rfl, rfl⟩

/-- Asking for the parameters of a legal build gives that build. -/
theorem Params.build_of_params (p : Params) :
    Params.build p.maxFramePayload p.destIdW p.handleW p.srcIdW p.routeIdW = some p := by
  rw [Params.build, dif_pos ⟨p.maxFramePayload_pos, p.maxFramePayload_le⟩, dif_pos p.destIdW_range,
    dif_pos p.handleW_range, dif_pos p.srcIdW_range, dif_pos p.routeIdW_range]

/-- Settles O57: a build refuses nothing in the ranges, and every value of `Params` carries its ranges. -/
theorem onlyLegalParametersAreBuilt : Obligations.OnlyLegalParametersAreBuilt := by
  unfold Obligations.OnlyLegalParametersAreBuilt
  refine fun m d h s r => ⟨⟨?_, ?_⟩, fun p => Params.fields_of_build⟩
  · rintro ⟨⟨hm, hm'⟩, hd, hh, hs, hr⟩
    rw [Params.build_of_params ⟨m, d, h, s, r, hm, hm', hd, hh, hs, hr⟩]
    rfl
  · intro hb
    obtain ⟨p, hp⟩ := Option.isSome_iff_exists.1 hb
    obtain ⟨rfl, rfl, rfl, rfl, rfl⟩ := Params.fields_of_build hp
    exact ⟨⟨p.maxFramePayload_pos, p.maxFramePayload_le⟩, p.destIdW_range, p.handleW_range, p.srcIdW_range,
      p.routeIdW_range⟩

end Sys2Proof

namespace Sys2Proof.Machine

/-! ### Equality of one unit's registers -/

theorem SameSampler.symm {s t : State} (h : SameSampler s t) : SameSampler t s := by
  obtain ⟨hb, hw, hv, hr⟩ := h
  exact ⟨hb.symm, hw.symm, hv.symm, hr.symm⟩

theorem SameSampler.trans {s t u : State} (h : SameSampler s t) (h' : SameSampler t u) : SameSampler s u := by
  obtain ⟨hb, hw, hv, hr⟩ := h
  obtain ⟨hb', hw', hv', hr'⟩ := h'
  exact ⟨hb'.trans hb, hw'.trans hw, hv'.trans hv, hr'.trans hr⟩

theorem SameFramer.symm {s t : State} (h : SameFramer s t) : SameFramer t s := ⟨h.1.symm, h.2.symm⟩

theorem SameFramer.trans {s t u : State} (h : SameFramer s t) (h' : SameFramer t u) : SameFramer s u :=
  ⟨h'.1.trans h.1, h'.2.trans h.2⟩

theorem SameButTransients.sameSampler {s t : State} (h : SameButTransients s t) : SameSampler s t := by
  obtain ⟨-, -, -, hb, hw, hv, hr, -⟩ := h.fields
  exact ⟨hb.symm, hw.symm, hv.symm, hr.symm⟩

theorem SameButTransients.sameFramer {s t : State} (h : SameButTransients s t) : SameFramer s t := by
  obtain ⟨-, hseq, hfrag, -⟩ := h.fields
  exact ⟨hseq.symm, hfrag.symm⟩

/-! ### The commands that leave a unit alone -/

/-- Only the commands that read the clock write the sampler's registers. -/
theorem after_sameSampler {i : Instr} (hi : readsClock i = false) (s : State) : SameSampler s (after i s) := by
  cases i with
  | nop => exact ⟨rfl, rfl, rfl, rfl⟩
  | frame n => exact ⟨rfl, rfl, rfl, rfl⟩
  | dispatch flags len => simp only [after]; split <;> exact ⟨rfl, rfl, rfl, rfl⟩
  | readreg idx => simp only [after]; cases regValue s idx <;> exact ⟨rfl, rfl, rfl, rfl⟩
  | blob n => cases hi
  | sample n => cases hi
  | smpStart => cases hi

@[simp] theorem afterArrival_frag (c : Addr) (s : State) : (afterArrival c s).frag = s.frag := by
  unfold afterArrival; split <;> [rfl; split <;> rfl]

/-- Only the commands that frame a blob write SEQ and FRAG. -/
theorem after_sameFramer {i : Instr} (hi : framesBlob i = false) (s : State) : SameFramer s (after i s) := by
  cases i with
  | nop => exact ⟨rfl, rfl⟩
  | sample n => exact ⟨afterArrival_seq n s, afterArrival_frag n s⟩
  | dispatch flags len => simp only [after]; split <;> exact ⟨rfl, rfl⟩
  | smpStart => exact ⟨rfl, rfl⟩
  | readreg idx => simp only [after]; cases regValue s idx <;> exact ⟨rfl, rfl⟩
  | blob n => cases hi
  | frame n => cases hi

/-! ### The commands that use a unit -/

/-- An arrival reads the clock and the sampler's registers only (R131, R138). -/
theorem afterArrival_sameSampler (c : Addr) {s s' : State} (he : s.env = s'.env) (h : SameSampler s s') :
    SameSampler (afterArrival c s) (afterArrival c s') := by
  obtain ⟨hb, hw, hv, hr⟩ := h
  have hcloses : windowCloses s' s.env.nowMs = windowCloses s s.env.nowMs := by
    rw [windowCloses, windowCloses, hw, hv]
  have hrate : arrivalRate s' c s.env.nowMs = arrivalRate s c s.env.nowMs := by
    rw [arrivalRate, arrivalRate, hb, hw]
  rw [afterArrival, afterArrival, ← he, hcloses, hv]
  split
  · exact ⟨rfl, rfl, rfl, hrate⟩
  · split
    · exact ⟨congrArg (· + c.setWidth 64) hb, hw, rfl, hr⟩
    · exact ⟨hb, hw, hv, hr⟩

/-- What a command leaves in the sampler depends on the draws and the sampler only. -/
theorem after_sampler_congr (i : Instr) {s s' : State} (he : s.env = s'.env) (h : SameSampler s s') :
    SameSampler (after i s) (after i s') := by
  cases hi : readsClock i with
  | false => exact ((after_sameSampler hi s).symm.trans h).trans (after_sameSampler hi s')
  | true =>
    cases i with
    | blob n => exact afterArrival_sameSampler n he h
    | sample n => exact afterArrival_sameSampler n he h
    | smpStart =>
      obtain ⟨-, -, -, hr⟩ := h
      exact ⟨rfl, congrArg Env.nowMs he.symm, rfl, hr⟩
    | nop => cases hi
    | frame n => cases hi
    | dispatch flags len => cases hi
    | readreg idx => cases hi

/-- What framing a blob of length n leaves in SEQ and FRAG (R104, R105) depends on M and SEQ only. -/
theorem after_framing {i : Instr} {n : Addr} (hi : i = .blob n ∨ i = .frame n) (s : State) :
    (after i s).seq = s.seq + 1 ∧ (after i s).frag = fragAfter n.toNat s.params.maxFramePayload := by
  rcases hi with rfl | rfl <;> exact ⟨rfl, rfl⟩

/-- What a command leaves in SEQ and FRAG depends on the parameters and the framer only. -/
theorem after_framer_congr (i : Instr) {s s' : State} (hp : s.params = s'.params) (h : SameFramer s s') :
    SameFramer (after i s) (after i s') := by
  cases hi : framesBlob i with
  | false => exact ((after_sameFramer hi s).symm.trans h).trans (after_sameFramer hi s')
  | true =>
    have hn : ∃ n, i = .blob n ∨ i = .frame n := by
      cases i with
      | blob n => exact ⟨n, .inl rfl⟩
      | frame n => exact ⟨n, .inr rfl⟩
      | _ => cases hi
    obtain ⟨n, hn⟩ := hn
    obtain ⟨hseq, hfrag⟩ := after_framing hn s
    obtain ⟨hseq', hfrag'⟩ := after_framing hn s'
    exact ⟨by rw [hseq, hseq', h.1], by rw [hfrag, hfrag', hp]⟩

/-- Settles O32, from `after`: each unit's registers after a command are a function of the draws, the parameters and that
unit's registers before it. -/
theorem unitsReadOnlyTheirOwnRegisters : Obligations.UnitsReadOnlyTheirOwnRegisters := by
  unfold Obligations.UnitsReadOnlyTheirOwnRegisters
  intro i s s' t t' hp he ht ht'
  have hleft := exec_next ht
  have hleft' := exec_next ht'
  constructor
  · intro h
    exact (hleft.sameSampler.trans (after_sampler_congr i he h)).trans hleft'.sameSampler.symm
  · intro h
    exact (hleft.sameFramer.trans (after_framer_congr i hp h)).trans hleft'.sameFramer.symm

end Sys2Proof.Machine

/-! ## The state: its registers, STATUS, the transient registers and the invariant (10_state.md) -/

namespace Sys2Proof

/-- The decoder reads a command's word as that command (R70, R73). -/
theorem decode_encode (i : Instr) : decode (encode i) = .instr i := by
  have hfields : Laws.EncodedFields.Statement i := by
    cases i with
    | nop => exact Laws.EncodedFields.nop
    | blob n => exact Laws.EncodedFields.blob n
    | frame n => exact Laws.EncodedFields.frame n
    | sample n => exact Laws.EncodedFields.sample n
    | dispatch flags len => exact Laws.EncodedFields.dispatch flags len
    | smpStart => exact Laws.EncodedFields.smpStart
    | readreg idx => exact Laws.EncodedFields.readreg idx
  obtain ⟨hword, hcommand, hzero⟩ := hfields
  rw [decode, hword, Fields.decoded]
  simp only [hcommand, hzero, if_true]

/-- R85's expression for the word of READREG. -/
theorem encode_readreg (idx : Byte) : encode (.readreg idx) = idx.setWidth 64 <<< 8 ||| 0x6 := by
  apply BitVec.eq_of_toNat_eq
  have hidx := idx.isLt
  have hshift : (idx.setWidth 64 <<< 8).toNat = idx.toNat <<< 8 := by
    simp only [BitVec.toNat_shiftLeft, BitVec.toNat_setWidth, Nat.shiftLeft_eq]
    omega
  have hor := Nat.shiftLeft_add_eq_or_of_lt (show 6 < 2 ^ 8 by decide) idx.toNat
  rw [encode, Fields.toWord_toNat, BitVec.toNat_or, hshift]
  change _ = idx.toNat <<< 8 ||| 6
  rw [← hor, Nat.shiftLeft_eq]
  simp [Instr.fields]

end Sys2Proof

namespace Sys2Proof.Machine

/-! ### Running a word and one step, case by case -/

theorem runWord_of_instr {w : Word} {i : Instr} (h : decode w = .instr i) (s : State) : runWord w s = exec i s := by
  simp only [runWord, h]

theorem runWord_of_error {w : Word} {c : CmdError} (h : decode w = .error c) (s : State) :
    runWord w s = .next (raise c s) := by
  simp only [runWord, h]

theorem step_of_idle {s : State} (h : s.pending = []) : step s = .next s := by
  simp only [step, h]

theorem step_of_command {s : State} {w : Word} {e : Env} {rest : List HostAction}
    (h : s.pending = .command w e :: rest) : step s = settle (accept e rest s) (runWord w (accept e rest s)) := by
  simp only [step, h]

theorem step_of_reset {s : State} {rest : List HostAction} (h : s.pending = .reset :: rest) :
    step s = .next (applyReset (s.setPending rest)) := by
  simp only [step, h]

theorem step_of_resetDuring {s : State} {w : Word} {e : Env} {completed : Nat} {rest : List HostAction}
    (h : s.pending = .resetDuring w e completed :: rest) :
    step s = cutByReset completed (accept e rest s) (runWord w (accept e rest s)) := by
  simp only [step, h]

/-- A command has a final state exactly when it makes no stalled transfer (R244). -/
theorem settle_next_iff {s t u : State} :
    settle s (.next t) = .next u ↔
      stalls s.env (t.transfers.length - s.transfers.length) = false ∧ t = u := by
  rw [settle]
  cases stalls s.env (t.transfers.length - s.transfers.length) <;> simp

/-! ### The block right after reset -/

/-- Settles O17: each register of `State.reset` is read off. -/
theorem registersAtReset : Obligations.RegistersAtReset := by
  unfold Obligations.RegistersAtReset
  exact ⟨⟨rfl, rfl, rfl, rfl, rfl, rfl, rfl, rfl⟩, rfl, rfl, rfl, rfl, rfl, rfl, rfl⟩

/-! ### READREG (R36, R205) -/

/-- The indices from 0x08 on are unassigned (R36). -/
theorem regValue_unassigned (s : State) {idx : Byte} (h : 8 ≤ idx.toNat) : regValue s idx = none := by
  obtain ⟨k, hk⟩ := Nat.exists_eq_add_of_le' h
  unfold regValue
  rw [hk]
  rfl

/-- READREG of an assigned index answers its register. -/
theorem exec_readreg_of_some {s : State} {idx : Byte} {v : Word} (h : regValue s idx = some v) :
    exec (.readreg idx) s = .next { s with transfers := s.transfers ++ [.event (.resp 0 0 v)] } := by
  simp only [exec, execReadreg, h]
  rfl

/-- READREG of an unassigned index raises cause 4. -/
theorem exec_readreg_of_none {s : State} {idx : Byte} (h : regValue s idx = none) :
    exec (.readreg idx) s = .next (raise .badRegIndex s) := by
  simp only [exec, execReadreg, h]

theorem setWidth_ofBool (b : Bool) : (BitVec.ofBool b).setWidth 64 = if b then (1 : Word) else 0 := by
  cases b <;> rfl

/-- Settles O34: the register map index by index, and the word by `encode_readreg`. -/
theorem readregAnswersTheRegisterMap : Obligations.ReadregAnswersTheRegisterMap := by
  unfold Obligations.ReadregAnswersTheRegisterMap
  intro s answers
  refine ⟨exec_readreg_of_some rfl, exec_readreg_of_some rfl, exec_readreg_of_some rfl, exec_readreg_of_some rfl,
    exec_readreg_of_some rfl, ?_, exec_readreg_of_some rfl, ?_, ?_, ?_⟩
  · rw [← setWidth_ofBool]
    exact exec_readreg_of_some rfl
  · rw [← setWidth_ofBool]
    exact exec_readreg_of_some rfl
  · intro idx hidx
    rw [exec_readreg_of_none (regValue_unassigned s hidx), raise_eq]
    rfl
  · intro idx
    rw [← encode_readreg, runWord_of_instr (decode_encode _)]

/-! ### The framer's registers -/

/-- Settles O25: `after` writes SEQ and FRAG in the framing commands only. -/
theorem onlyFramingWritesSeqAndFrag : Obligations.OnlyFramingWritesSeqAndFrag := by
  unfold Obligations.OnlyFramingWritesSeqAndFrag
  intro i s t ht hi
  exact (after_sameFramer hi s).trans (exec_next ht).sameFramer.symm

/-! ### The sampler's registers -/

/-- The commands that read the clock account for an arrival or restart the window (R43). -/
theorem readsClock_cases (i : Instr) :
    readsClock i = false ∨ (∃ n, i = .blob n ∨ i = .sample n) ∨ i = .smpStart := by
  cases i with
  | blob n => exact .inr (.inl ⟨n, .inl rfl⟩)
  | sample n => exact .inr (.inl ⟨n, .inr rfl⟩)
  | smpStart => exact .inr (.inr rfl)
  | _ => exact .inl rfl

/-- A stopped sampler ignores an arrival (R29, R131). -/
theorem afterArrival_of_stopped {s : State} (h : s.timerValid = false) (c : Addr) : afterArrival c s = s := by
  simp [afterArrival, windowCloses, h]

/-- With the timer never started, no command but SMP_START writes the sampler's registers (R29). -/
theorem after_sameSampler_of_stopped {i : Instr} {s : State} (h : s.timerValid = false) (hi : i ≠ .smpStart) :
    SameSampler s (after i s) := by
  rcases readsClock_cases i with hc | ⟨n, rfl | rfl⟩ | rfl
  · exact after_sameSampler hc s
  · simp only [after, afterArrival_of_stopped h]
    exact ⟨rfl, rfl, rfl, rfl⟩
  · simp only [after, afterArrival_of_stopped h]
    exact ⟨rfl, rfl, rfl, rfl⟩
  · exact absurd rfl hi

/-- A command leaves the timer started exactly when it is SMP_START or the timer had been started (R29). -/
theorem after_timerValid_iff (i : Instr) (s : State) :
    (after i s).timerValid = true ↔ i = .smpStart ∨ s.timerValid = true := by
  rcases readsClock_cases i with hc | ⟨n, rfl | rfl⟩ | rfl
  · obtain ⟨-, -, hvalid, -⟩ := after_sameSampler hc s
    have hi : i ≠ .smpStart := by rintro rfl; cases hc
    simp [hvalid, hi]
  · simp [after]
  · simp [after]
  · simp [after]

theorem exec_timerValid_iff {i : Instr} {s t : State} (h : exec i s = .next t) :
    t.timerValid = true ↔ i = .smpStart ∨ s.timerValid = true := by
  obtain ⟨-, -, hvalid, -⟩ := (exec_next h).sameSampler
  rw [← hvalid, after_timerValid_iff]

theorem exec_sameSampler_of_stopped {i : Instr} {s t : State} (h : exec i s = .next t) (hs : s.timerValid = false)
    (hi : i ≠ .smpStart) : SameSampler s t :=
  (after_sameSampler_of_stopped hs hi).trans (exec_next h).sameSampler.symm

/-- No word stops the timer (R29). -/
theorem runWord_keeps_timerValid {w : Word} {s t : State} (h : runWord w s = .next t) (hs : s.timerValid = true) :
    t.timerValid = true := by
  rcases runWord_cases h with ⟨i, -, hi⟩ | ⟨c, -, rfl⟩
  · exact (exec_timerValid_iff hi).2 (.inr hs)
  · exact hs

/-- Settles O26: by what the word decodes to, and by what the step was. -/
theorem onlySmpStartStartsTheTimer : Obligations.OnlySmpStartStartsTheTimer := by
  unfold Obligations.OnlySmpStartStartsTheTimer
  refine ⟨fun w s t h => ⟨fun hs hw => ?_, fun hw => ?_⟩, fun s t h hs ht => ?_⟩
  · rcases runWord_cases h with ⟨i, hi, hexec⟩ | ⟨c, -, rfl⟩
    · exact exec_sameSampler_of_stopped hexec hs fun heq => hw (hi.trans (congrArg _ heq))
    · exact ⟨rfl, rfl, rfl, rfl⟩
  · rw [runWord_of_instr hw] at h
    exact (exec_timerValid_iff h).2 (.inl rfl)
  · rcases step_cases h with ⟨-, rfl⟩ | ⟨w, e, rest, -, hrun⟩ | ⟨rest, hp, -⟩ | ⟨w, e, c, rest, -, hp, -, -⟩
    · rw [hs] at ht; cases ht
    · rw [runWord_keeps_timerValid hrun hs] at ht; cases ht
    · exact ⟨rest, .inl hp⟩
    · exact ⟨rest, .inr ⟨w, e, c, hp⟩⟩

/-! ### RATE_SNAPSHOT -/

/-- A command publishes a rate exactly when its arrival closes the window (R132, R173). -/
theorem rateOut_mem_made_iff {i : Instr} {s : State} {r : Word} :
    .event (.rateOut r) ∈ made i s ↔
      ∃ n, (i = .blob n ∨ i = .sample n) ∧ windowCloses s s.env.nowMs = true ∧ r = arrivalRate s n s.env.nowMs := by
  constructor
  · intro h
    obtain ⟨l, st, c, v, hmade, hl⟩ := made_members i s
    simp only [hmade, List.mem_append, List.mem_singleton, Transfer.event.injEq, reduceCtorEq, or_false] at h
    rcases hl _ h with ⟨a, ha⟩ | ⟨f, hf⟩ | ⟨ev, hev, hd⟩ | ⟨n, hn, hx⟩
    · cases ha
    · cases hf
    · cases hev; cases hd
    · obtain ⟨hcloses, hr⟩ := mem_arrival hx
      cases hr
      exact ⟨n, hn, hcloses, rfl⟩
  · rintro ⟨n, rfl | rfl, hcloses, rfl⟩ <;> simp [made, arrivalTransfers, hcloses]

theorem afterArrival_rateSnapshot (c : Addr) (s : State) :
    (afterArrival c s).rateSnapshot =
      if windowCloses s s.env.nowMs then arrivalRate s c s.env.nowMs else s.rateSnapshot := by
  unfold afterArrival
  split
  · rfl
  · split <;> rfl

/-- A command that accounts for an arrival keeps the rate it publishes (R132). -/
theorem after_rateSnapshot_of_arrival {i : Instr} {n : Addr} (hi : i = .blob n ∨ i = .sample n) (s : State) :
    (after i s).rateSnapshot =
      if windowCloses s s.env.nowMs then arrivalRate s n s.env.nowMs else s.rateSnapshot := by
  rcases hi with rfl | rfl <;> exact afterArrival_rateSnapshot n s

/-- Settles O27: a command publishes a rate exactly when its arrival closes the window, and RATE_SNAPSHOT takes a new value
then only. -/
theorem rateSnapshotIsTheLastPublishedRate : Obligations.RateSnapshotIsTheLastPublishedRate := by
  unfold Obligations.RateSnapshotIsTheLastPublishedRate
  intro i s t ht
  obtain ⟨-, -, -, hrate⟩ := (exec_next ht).sameSampler
  rw [exec_newTransfers ht, ← hrate]
  constructor
  · intro r hr
    obtain ⟨n, hi, hcloses, rfl⟩ := rateOut_mem_made_iff.1 hr
    rw [after_rateSnapshot_of_arrival hi, if_pos hcloses]
  · intro hnone
    rcases readsClock_cases i with hc | ⟨n, hi⟩ | rfl
    · obtain ⟨-, -, -, hkept⟩ := after_sameSampler hc s
      exact hkept
    · have hopen : ¬ windowCloses s s.env.nowMs = true := fun hcloses =>
        hnone _ (rateOut_mem_made_iff.2 ⟨n, hi, hcloses, rfl⟩)
      rw [after_rateSnapshot_of_arrival hi, if_neg hopen]
    · rfl

/-! ### STATUS (R32, R201) -/

/-- A word raises an error, or it keeps STATUS and its last transfer is an OK response. -/
theorem runWord_ok_or_raise {w : Word} {s t : State} (h : runWord w s = .next t) :
    (∃ c, t = raise c s) ∨ (SameStatus s t ∧ ∃ v, t.transfers.getLast? = some (okResp v)) := by
  rcases runWord_cases h with ⟨i, -, hi⟩ | ⟨c, -, ht⟩
  · rcases exec_ok_or_raise hi with hraise | ⟨hstatus, l, v, hmade⟩
    · exact .inl hraise
    · refine .inr ⟨hstatus, v, ?_⟩
      rw [exec_transfers hi, hmade, ← List.append_assoc, List.getLast?_concat]
  · exact .inl ⟨c, ht⟩

theorem raise_getLast? (c : CmdError) (s : State) :
    (raise c s).transfers.getLast? = some (.event (.resp 1 (causeCode c) 0)) := by
  rw [raise_eq, List.getLast?_concat]

/-- An error after the first keeps the first cause (R201). -/
theorem raise_errCause_of_err {s : State} (h : s.err = true) (c : CmdError) : (raise c s).errCause = s.errCause := by
  rw [raise_eq]; exact if_pos h

/-- The first error since reset records its cause (R201). -/
theorem raise_errCause_of_noErr {s : State} (h : s.err = false) (c : CmdError) :
    (raise c s).errCause = causeCode c := by
  rw [raise_eq]; simp [h]

/-- No word clears ERR or replaces the first cause (R32). -/
theorem runWord_keeps_status {w : Word} {s t : State} (h : runWord w s = .next t) (hs : s.err = true) :
    t.err = true ∧ t.errCause = s.errCause := by
  rcases runWord_ok_or_raise h with ⟨c, rfl⟩ | ⟨⟨herr, hcause⟩, -⟩
  · exact ⟨rfl, raise_errCause_of_err hs c⟩
  · exact ⟨herr.trans hs, hcause⟩

/-- Settles O10: a word raises or answers OK, and only a reset step is neither idle nor a word. -/
theorem statusIsStickyAndKeepsTheFirstCause : Obligations.StatusIsStickyAndKeepsTheFirstCause := by
  unfold Obligations.StatusIsStickyAndKeepsTheFirstCause
  refine ⟨fun w s t h => ⟨runWord_keeps_status h, fun c v hlast => ?_, fun v hlast => ?_⟩, fun s t h hs => ?_,
    fun s rest hp => ⟨_, step_of_reset hp, rfl, rfl⟩⟩
  · rcases runWord_ok_or_raise h with ⟨c', rfl⟩ | ⟨-, v', hok⟩
    · rw [raise_getLast?] at hlast
      cases hlast
      exact ⟨rfl, fun hs => raise_errCause_of_noErr hs c'⟩
    · rw [hok] at hlast; cases hlast
  · rcases runWord_ok_or_raise h with ⟨c', rfl⟩ | ⟨hstatus, -⟩
    · rw [raise_getLast?] at hlast; cases hlast
    · exact hstatus
  · rcases step_cases h with ⟨-, rfl⟩ | ⟨w, e, rest, -, hrun⟩ | ⟨rest, hp, -⟩ | ⟨w, e, c, rest, -, hp, -, -⟩
    · exact .inl ⟨hs, rfl⟩
    · have hkept := runWord_keeps_status hrun hs
      exact .inl hkept
    · exact .inr ⟨rest, .inl hp⟩
    · exact .inr ⟨rest, .inr ⟨w, e, c, hp⟩⟩

/-! ### The transient registers (R34) -/

theorem SameButTransients.symm {s t : State} (h : SameButTransients s t) : SameButTransients t s := Eq.symm h

theorem SameButTransients.trans {s t u : State} (h : SameButTransients s t) (h' : SameButTransients t u) :
    SameButTransients s u := Eq.trans h h'

/-- An update whose result does not depend on the transient registers, but for them, respects `SameButTransients`. -/
theorem SameButTransients.map {f : State → State}
    (hf : ∀ u : State, (f u).eraseTransients = (f u.eraseTransients).eraseTransients) {s s' : State}
    (h : SameButTransients s s') : SameButTransients (f s) (f s') := by
  unfold SameButTransients at *
  rw [hf, h, ← hf]

theorem exec_congr {i : Instr} {s s' t : State} (h : SameButTransients s s') (ht : exec i s = .next t) :
    ∃ t', exec i s' = .next t' ∧ SameButTransients t t' := by
  obtain ⟨t', ht', hleft'⟩ := exec_spec i s'
  exact ⟨t', ht', ((exec_next ht).trans (after_congr h)).trans hleft'.symm⟩

theorem runWord_congr {w : Word} {s s' t : State} (h : SameButTransients s s') (ht : runWord w s = .next t) :
    ∃ t', runWord w s' = .next t' ∧ SameButTransients t t' := by
  rcases runWord_cases ht with ⟨i, hw, hi⟩ | ⟨c, hw, rfl⟩
  · rw [runWord_of_instr hw]
    exact exec_congr h hi
  · exact ⟨_, runWord_of_error hw s', raise_congr h⟩

/-- Whether a command is stuck does not depend on the transient registers (R244). -/
theorem settle_congr {s s' t t' u : State} (hs : SameButTransients s s') (ht : SameButTransients t t')
    (h : settle s (.next t) = .next u) : settle s' (.next t') = .next t' ∧ SameButTransients u t' := by
  obtain ⟨-, -, -, -, -, -, -, -, -, henv, -, hmoved⟩ := hs.fields
  obtain ⟨-, -, -, -, -, -, -, -, -, -, -, hmoved'⟩ := ht.fields
  obtain ⟨hstall, rfl⟩ := settle_next_iff.1 h
  rw [henv, hmoved, hmoved'] at hstall
  exact ⟨settle_next_iff.2 ⟨hstall, rfl⟩, ht⟩

/-- A reset that cuts a command leaves the same but for transients (R232). -/
theorem cutByReset_congr {completed : Nat} {s s' t t' u : State} (hs : SameButTransients s s')
    (ht : SameButTransients t t') (h : cutByReset completed s (.next t) = .next u) :
    ∃ u', cutByReset completed s' (.next t') = .next u' ∧ SameButTransients u u' := by
  obtain ⟨-, -, -, -, -, -, -, -, -, henv, -, hmoved⟩ := hs.fields
  obtain ⟨-, -, -, -, -, -, -, -, -, -, -, hmoved'⟩ := ht.fields
  cases h
  rw [henv, hmoved, hmoved']
  exact ⟨_, rfl, hs.map (f := fun u => applyReset (u.move _)) fun _ => rfl⟩

/-- Settles O28: a simulation between the two states, action by action of the host. -/
theorem transientRegistersAreNotObservable : Obligations.TransientRegistersAreNotObservable := by
  unfold Obligations.TransientRegistersAreNotObservable
  intro s s' t h ht
  obtain ⟨-, -, -, -, -, -, -, -, -, -, hpending, -⟩ := h.fields
  match hp : s.pending with
  | [] =>
    rw [step_of_idle hp] at ht
    cases ht
    exact ⟨s', step_of_idle (hpending ▸ hp), h⟩
  | .command w e :: rest =>
    obtain ⟨u, hu⟩ := runWord_total w (accept e rest s)
    obtain ⟨u', hu', hsame⟩ := runWord_congr (accept_congr h) hu
    rw [step_of_command hp, hu] at ht
    rw [step_of_command (hpending ▸ hp), hu']
    exact ⟨u', settle_congr (accept_congr h) hsame ht⟩
  | .reset :: rest =>
    rw [step_of_reset hp] at ht
    cases ht
    exact ⟨_, step_of_reset (hpending ▸ hp), h.map (f := fun u => applyReset (u.setPending rest)) fun _ => rfl⟩
  | .resetDuring w e completed :: rest =>
    obtain ⟨u, hu⟩ := runWord_total w (accept e rest s)
    obtain ⟨u', hu', hsame⟩ := runWord_congr (accept_congr h) hu
    rw [step_of_resetDuring hp, hu] at ht
    rw [step_of_resetDuring (hpending ▸ hp), hu']
    exact cutByReset_congr (accept_congr h) hsame ht

/-! ### The clock draw (R43) -/

/-- What a command that does not read the clock leaves is the same at every clock value. -/
theorem after_withNow {i : Instr} (hi : readsClock i = false) (now : Word) (s : State) :
    after i (s.withNow now) = (after i s).withNow now := by
  cases i with
  | nop => rfl
  | frame n => rfl
  | dispatch flags len =>
    simp only [after]
    have hparams : (s.withNow now).params = s.params := rfl
    rw [hparams]
    split <;> rfl
  | readreg idx =>
    simp only [after]
    have hvalue : regValue (s.withNow now) idx = regValue s idx := rfl
    rw [hvalue]
    cases regValue s idx <;> rfl
  | blob n => cases hi
  | sample n => cases hi
  | smpStart => cases hi

/-- Settles O29: `after` does not read the clock in these commands. -/
theorem onlyThreeCommandsReadTheClock : Obligations.OnlyThreeCommandsReadTheClock := by
  unfold Obligations.OnlyThreeCommandsReadTheClock
  intro i s t now hi ht
  obtain ⟨t', ht', hleft'⟩ := exec_spec i (s.withNow now)
  rw [after_withNow hi] at hleft'
  have hleft : SameButTransients (t.withNow now) ((after i s).withNow now) := (exec_next ht).map fun _ => rfl
  exact ⟨t', ht', hleft'.trans hleft.symm⟩

/-! ### The register invariant -/

theorem causeCode_range (c : CmdError) : (causeCode c).toNat ≤ 4 ∧ causeCode c ≠ 0 := by
  cases c <;> decide

/-- Taking a word off the queue keeps the invariant when its BIS and those left are canonical. -/
theorem accept_keeps_blockInv {s : State} (h : BlockInv s) {e : Env} {rest : List HostAction} (he : e.blob.wf = true)
    (hrest : ∀ a ∈ rest, a.wf = true) : BlockInv (accept e rest s) :=
  { h with blob_wf := ⟨he, hrest⟩ }

/-- Taking a command error keeps the invariant: the cause recorded is the first one, or a code of R200. -/
theorem raise_keeps_blockInv {s : State} (h : BlockInv s) (c : CmdError) : BlockInv (raise c s) := by
  obtain ⟨hrange, hne⟩ := causeCode_range c
  have hcause : (raise c s).errCause.toNat ≤ 4 ∧ (raise c s).errCause ≠ 0 := by
    cases hs : s.err with
    | true =>
      rw [raise_errCause_of_err hs]
      exact ⟨h.cause_range, h.err_cause.1 hs⟩
    | false =>
      rw [raise_errCause_of_noErr hs]
      exact ⟨hrange, hne⟩
  exact { h with cause_range := hcause.1, err_cause := ⟨fun _ => hcause.2, fun _ => rfl⟩ }

/-- While a command leaves the timer stopped, it leaves the sampler's reset values (R27, R29). -/
theorem exec_sampler_stopped {i : Instr} {s t : State} (h : BlockInv s) (ht : exec i s = .next t)
    (hstopped : t.timerValid = false) : t.byteTotal = 0 ∧ t.windowStart = 0 ∧ t.rateSnapshot = 0 := by
  have hnot : ¬ (i = .smpStart ∨ s.timerValid = true) := by
    rw [← exec_timerValid_iff ht, hstopped]; decide
  rw [not_or, Bool.not_eq_true] at hnot
  obtain ⟨hi, hs⟩ := hnot
  obtain ⟨hb, hw, -, hr⟩ := exec_sameSampler_of_stopped ht hs hi
  rw [hb, hw, hr]
  exact h.sampler_stopped hs

/-- Every command keeps the invariant. -/
theorem exec_keeps_blockInv {i : Instr} {s t : State} (h : BlockInv s) (ht : exec i s = .next t) : BlockInv t := by
  rcases exec_ok_or_raise ht with ⟨c, rfl⟩ | ⟨⟨herr, hcause⟩, -⟩
  · exact raise_keeps_blockInv h c
  · obtain ⟨hpbuf, hsnap, hwidth⟩ := exec_shapes ht h.pbuf_length ⟨h.snap_length, h.snap_width⟩
    obtain ⟨-, henv, hpending, -⟩ := exec_outside ht
    exact
      { pbuf_length := hpbuf
        snap_length := hsnap
        snap_width := hwidth
        cause_range := hcause ▸ h.cause_range
        err_cause := by rw [herr, hcause]; exact h.err_cause
        sampler_stopped := exec_sampler_stopped h ht
        blob_wf := by rw [henv, hpending]; exact h.blob_wf }

theorem runWord_keeps_blockInv {w : Word} {s t : State} (h : BlockInv s) (ht : runWord w s = .next t) : BlockInv t := by
  rcases runWord_cases ht with ⟨i, -, hi⟩ | ⟨c, -, rfl⟩
  · exact exec_keeps_blockInv h hi
  · exact raise_keeps_blockInv h c

/-- A reset establishes the invariant whatever the registers held, as long as the BIS lists are canonical (R230). -/
theorem applyReset_blockInv {s : State} (h : s.env.blob.wf = true ∧ ∀ a ∈ s.pending, a.wf = true) :
    BlockInv (applyReset s) := by
  obtain ⟨hsnap, hwidth⟩ : SnapShape (applyReset s) := forgetMux_snapShape _
  exact
    { pbuf_length := forgetPbuf_length _
      snap_length := hsnap
      snap_width := hwidth
      cause_range := Nat.zero_le 4
      err_cause := by change false = true ↔ (0 : BitVec 4) ≠ 0; decide
      sampler_stopped := fun _ => ⟨rfl, rfl, rfl⟩
      blob_wf := h }

/-- Settles O19: each action of the host keeps the invariant. -/
theorem everyStepKeepsTheRegisterInvariant : Obligations.EveryStepKeepsTheRegisterInvariant := by
  unfold Obligations.EveryStepKeepsTheRegisterInvariant
  intro s t h ht
  obtain ⟨hblob, hpending⟩ := h.blob_wf
  rcases step_cases ht with
    ⟨-, rfl⟩ | ⟨w, e, rest, hp, hrun⟩ | ⟨rest, hp, rfl⟩ | ⟨w, e, c, rest, u, hp, -, rfl⟩
  · exact h
  all_goals
    rw [hp, List.forall_mem_cons] at hpending
    obtain ⟨hhead, hrest⟩ := hpending
  · exact runWord_keeps_blockInv (accept_keeps_blockInv h hhead hrest) hrun
  · exact applyReset_blockInv ⟨hblob, hrest⟩
  · exact applyReset_blockInv ⟨hhead, hrest⟩

/-- Settles O18: the block at reset is idle with nothing transferred, and its registers have the shapes of R20. -/
theorem resetMeetsTheInvariants : Obligations.ResetMeetsTheInvariants := by
  unfold Obligations.ResetMeetsTheInvariants
  refine ⟨?_, fun x hx => absurd hx List.not_mem_nil, trivial⟩
  exact
    { pbuf_length := List.length_replicate
      snap_length := Nat.zero_le 255
      snap_width := fun d hd => absurd hd List.not_mem_nil
      cause_range := Nat.zero_le 4
      err_cause := by decide
      sampler_stopped := fun _ => ⟨rfl, rfl, rfl⟩
      blob_wf := ⟨reset_blob_wf, fun a ha => absurd ha List.not_mem_nil⟩ }

end Sys2Proof.Machine

/-! ## The Blob Input Space and the log of transfers (20_memory.md) -/

namespace Sys2Proof.Machine

/-! ### The host's writes (R50) -/

/-- Settles O55: the two laws of a write in the canonical list. -/
theorem hostWriteOfTheBisReadsBack : Obligations.HostWriteOfTheBisReadsBack := by
  unfold Obligations.HostWriteOfTheBisReadsBack
  exact fun m a v hm ha => ⟨Memory.wf_write hm ha v, fun b => Memory.read_write_from hm a b v⟩

/-! ### The log of transfers (R62, R232) -/

/-- Settles O22: only a word, or the part of one before a reset cuts it, adds transfers. -/
theorem everyStepOnlyAppendsTransfers : Obligations.EveryStepOnlyAppendsTransfers := by
  unfold Obligations.EveryStepOnlyAppendsTransfers
  intro s t h
  rcases step_cases h with ⟨-, rfl⟩ | ⟨w, e, rest, -, hrun⟩ | ⟨rest, -, rfl⟩ | ⟨w, e, c, rest, u, -, -, rfl⟩
  · exact ⟨[], (List.append_nil _).symm⟩
  · exact runWord_appends (s := accept e rest s) hrun
  · exact ⟨[], (List.append_nil _).symm⟩
  · exact ⟨_, rfl⟩

/-! ### The BIS reads of each command (R60) -/

/-- Framing a blob reads it once, in increasing order: the frames tile it. -/
theorem reads_framed (p : Params) (e : Env) (sq : BitVec 5) (n : Nat) :
    readsOf (framedTransfers p e sq n) = (List.range n).map (BitVec.ofNat 32) := by
  simp only [framedTransfers, readsOf_flatMap, reads_frame]
  exact frames_tile (BitVec.ofNat 32) p.maxFramePayload_pos

/-- Dispatching the frames adds no read. -/
theorem reads_relayed (p : Params) (e : Env) (sq : BitVec 5) (n : Nat) :
    readsOf (relayedTransfers p e sq n) = (List.range n).map (BitVec.ofNat 32) := by
  rw [← reads_framed p e sq n]
  simp only [relayedTransfers, framedTransfers, readsOf_flatMap, readsOf_append, reads_dispatch, List.append_nil]

theorem reads_blobRd (l : List Nat) :
    readsOf (l.map fun k => .blobRd (BitVec.ofNat 32 k)) = l.map (BitVec.ofNat 32) := by
  simp [readsOf, List.filterMap_map, Function.comp_def, Transfer.read?]

theorem reads_okResp (v : Word) : readsOf [okResp v] = [] := rfl

/-- A command reads the addresses below its input length. -/
theorem reads_made (i : Instr) (s : State) :
    readsOf (made i s) = (List.range (inputLength s.params.maxFramePayload i)).map (BitVec.ofNat 32) := by
  cases i with
  | nop => rfl
  | blob n =>
    simp only [made, inputLength, readsOf_append, reads_arrival, reads_relayed, reads_okResp, List.nil_append,
      List.append_nil]
  | frame n => simp only [made, inputLength, readsOf_append, reads_framed, reads_okResp, List.append_nil]
  | sample n => simp only [made, readsOf_append, reads_arrival, reads_okResp]; rfl
  | dispatch flags len =>
    simp only [made, inputLength]
    split
    · rfl
    · simp only [readsOf_append, reads_blobRd, reads_dispatch, reads_okResp, List.append_nil]
  | smpStart => rfl
  | readreg idx => simp only [made]; cases regValue s idx <;> rfl

/-- Settles O30: a command's reads are `reads_made`, and raising an error transfers a response only. -/
theorem bisReadsOfEachCommand : Obligations.BisReadsOfEachCommand := by
  unfold Obligations.BisReadsOfEachCommand
  intro w s t h
  rcases runWord_cases h with ⟨i, hw, hi⟩ | ⟨c, hw, rfl⟩
  · rw [exec_newTransfers hi, reads_made, hw]
  · rw [hw, raise_eq, newTransfers, List.drop_left]
    rfl

/-! ### The bytes past a command's input (R50) -/

/-- The same draws with another BIS at the port. -/
def Env.withBlob (m : Memory) (e : Env) : Env := { e with blob := m }

@[simp] theorem State.withBlob_env (m : Memory) (s : State) : (s.withBlob m).env = s.env.withBlob m := rfl

@[simp] theorem State.withBlob_params (m : Memory) (s : State) : (s.withBlob m).params = s.params := rfl

/-- A dispatch reads the BIS only through its frame. -/
theorem dispatchTransfers_withBlob (p : Params) (e : Env) (m : Memory) (k : Nat) (f : Frame) :
    dispatchTransfers p (e.withBlob m) k f = dispatchTransfers p e k f := rfl

section

variable (p : Params) {e : Env} {m : Memory} {n : Nat} (hm : ∀ a, a < n → Memory.read m a = Memory.read e.blob a)
include hm

/-- Frame i ends at or before byte n, so it carries the same bytes under two BIS contents that agree below n. -/
theorem blobFrame_withBlob {i : Nat} (hi : i < frameCount n p.maxFramePayload) (sq : BitVec 5) :
    blobFrame p (e.withBlob m) sq n i = blobFrame p e sq n i := by
  have hend := frame_end_le p.maxFramePayload_pos hi
  have hpayload : framePayload (e.withBlob m) n p.maxFramePayload i = framePayload e n p.maxFramePayload i := by
    refine List.map_congr_left fun k _ => ?_
    split
    · exact hm _ (by omega)
    · rfl
  rw [blobFrame, blobFrame, hpayload]

theorem frameTransfers_withBlob {i : Nat} (hi : i < frameCount n p.maxFramePayload) (sq : BitVec 5) :
    frameTransfers p (e.withBlob m) sq n i = frameTransfers p e sq n i := by
  rw [frameTransfers, frameTransfers, blobFrame_withBlob p hm hi]

theorem framedTransfers_withBlob (sq : BitVec 5) :
    framedTransfers p (e.withBlob m) sq n = framedTransfers p e sq n :=
  List.flatMap_congr fun _ hi => frameTransfers_withBlob p hm (List.mem_range.1 hi) sq

theorem relayedTransfers_withBlob (sq : BitVec 5) :
    relayedTransfers p (e.withBlob m) sq n = relayedTransfers p e sq n := by
  refine List.flatMap_congr fun i hi => ?_
  rw [List.mem_range] at hi
  rw [frameTransfers_withBlob p hm hi, blobFrame_withBlob p hm hi, dispatchTransfers_withBlob]

end

theorem hostFrame_withBlob (p : Params) {e : Env} {m : Memory} {len : Byte}
    (hm : ∀ a, a < len.toNat → Memory.read m a = Memory.read e.blob a) (flags : Byte) :
    hostFrame p (e.withBlob m) flags len = hostFrame p e flags len := by
  refine congrArg (Frame.mk len flags) (List.map_congr_left fun k _ => ?_)
  split
  · exact hm k (by assumption)
  · rfl

/-- The sampler does not read the BIS (R138). -/
theorem afterArrival_withBlob (c : Addr) (m : Memory) (s : State) :
    afterArrival c (s.withBlob m) = (afterArrival c s).withBlob m := by
  have hcloses : windowCloses (s.withBlob m) (s.withBlob m).env.nowMs = windowCloses s s.env.nowMs := rfl
  have hvalid : (s.withBlob m).timerValid = s.timerValid := rfl
  rw [afterArrival, afterArrival, hcloses, hvalid]
  split
  · rfl
  · split <;> rfl

/-- What a command leaves is the same under two BIS contents that agree below its input length. -/
theorem after_withBlob {i : Instr} {s : State} {m : Memory}
    (hm : ∀ a, a < inputLength s.params.maxFramePayload i → Memory.read m a = s.readByte a) :
    after i (s.withBlob m) = (after i s).withBlob m := by
  cases i with
  | nop => rfl
  | blob n =>
    have hmade := relayedTransfers_withBlob s.params (e := s.env) (n := n.toNat) hm
    simp only [after, afterArrival_withBlob, State.withBlob_params, State.withBlob_env, hmade]
    rfl
  | frame n =>
    have hmade := framedTransfers_withBlob s.params (e := s.env) (n := n.toNat) hm
    simp only [after, State.withBlob_params, State.withBlob_env, hmade]
    rfl
  | sample n =>
    simp only [after, afterArrival_withBlob]
    rfl
  | dispatch flags len =>
    rw [after, after, State.withBlob_params, State.withBlob_env]
    split
    · rfl
    · rename_i hlen
      rw [inputLength, if_neg hlen] at hm
      rw [hostFrame_withBlob s.params (e := s.env) hm, dispatchTransfers_withBlob]
      rfl
  | smpStart => rfl
  | readreg idx =>
    have hvalue : regValue (s.withBlob m) idx = regValue s idx := rfl
    simp only [after, hvalue]
    cases regValue s idx <;> rfl

/-- Settles O31: `after` reads the BIS below the input length only. -/
theorem bytesPastTheInputDoNotMatter : Obligations.BytesPastTheInputDoNotMatter := by
  unfold Obligations.BytesPastTheInputDoNotMatter
  intro i s t m hm ht
  obtain ⟨t', ht', hleft'⟩ := exec_spec i (s.withBlob m)
  rw [after_withBlob hm] at hleft'
  have hleft : SameButTransients (t.withBlob m) ((after i s).withBlob m) := (exec_next ht).map fun _ => rfl
  exact ⟨t', ht', hleft'.trans hleft.symm⟩

end Sys2Proof.Machine

/-! ## Encodings: the command word, the buses, the assembler, and the legality of what crosses a port (30_encoding.md) -/

namespace Sys2Proof

/-! ### The word of a command (R70 to R76) -/

/-- Settles O2: the decoder reads the fields the encoder packs, and the opcode map reads those as the command. -/
theorem decodeOfEncodeIsTheCommand : Obligations.DecodeOfEncodeIsTheCommand := by
  unfold Obligations.DecodeOfEncodeIsTheCommand
  exact decode_encode

end Sys2Proof

namespace Sys2Proof.Machine

/-! ### Every transfer is legal (R80, R84, R108, R243) -/

/-- The response of a command error is legal: its cause is a code of R200. -/
theorem errorResp_legal (p : Params) (c : CmdError) : (Transfer.event (.resp 1 (causeCode c) 0)).legal p := by
  obtain ⟨hle, hne⟩ := causeCode_range c
  have hpos : 1 ≤ (causeCode c).toNat := Nat.pos_of_ne_zero fun h => hne (BitVec.eq_of_toNat_eq h)
  exact .inr ⟨rfl, hpos, hle, rfl⟩

theorem framedTransfers_legal {p : Params} {e : Env} {sq : BitVec 5} {n : Nat} :
    ∀ x ∈ framedTransfers p e sq n, x.legal p := by
  intro x hx
  obtain ⟨i, hi, hx⟩ := List.mem_flatMap.1 hx
  exact frameTransfers_legal (List.mem_range.1 hi) x hx

theorem relayedTransfers_legal {p : Params} {e : Env} {sq : BitVec 5} {n : Nat} :
    ∀ x ∈ relayedTransfers p e sq n, x.legal p := by
  intro x hx
  obtain ⟨i, hi, hx⟩ := List.mem_flatMap.1 hx
  rw [List.mem_range] at hi
  rcases List.mem_append.1 hx with hx | hx
  · exact frameTransfers_legal hi x hx
  · exact dispatch_legal (blobFrame_legal hi) x hx

/-- Every transfer of a command is legal. -/
theorem made_legal (i : Instr) (s : State) : ∀ x ∈ made i s, x.legal s.params := by
  cases i with
  | nop => simp only [made, List.forall_mem_singleton]; exact okResp_legal
  | blob n =>
    simp only [made, List.forall_mem_append, List.forall_mem_singleton]
    exact ⟨arrival_legal, relayedTransfers_legal, okResp_legal⟩
  | frame n =>
    simp only [made, List.forall_mem_append, List.forall_mem_singleton]
    exact ⟨framedTransfers_legal, okResp_legal⟩
  | sample n =>
    simp only [made, List.forall_mem_append, List.forall_mem_singleton]
    exact ⟨arrival_legal, okResp_legal⟩
  | dispatch flags len =>
    simp only [made]
    split
    · exact List.forall_mem_singleton.2 (errorResp_legal _ .frameTooLong)
    · rename_i hlen
      simp only [List.forall_mem_append, List.forall_mem_map, List.forall_mem_singleton]
      exact ⟨fun _ _ => trivial, dispatch_legal (hostFrame_legal (Nat.not_lt.1 hlen)), okResp_legal⟩
  | smpStart => simp only [made, List.forall_mem_singleton]; exact okResp_legal
  | readreg idx =>
    simp only [made]
    split
    · exact List.forall_mem_singleton.2 (errorResp_legal _ .badRegIndex)
    · exact List.forall_mem_singleton.2 okResp_legal

/-- Legal transfers added under the same parameters keep every transfer legal. -/
theorem TraceLegal.append {s t : State} {l : List Transfer} (h : TraceLegal s) (hp : t.params = s.params)
    (ht : t.transfers = s.transfers ++ l) (hl : ∀ x ∈ l, x.legal s.params) : TraceLegal t := by
  rw [TraceLegal, hp, ht, List.forall_mem_append]
  exact ⟨h, hl⟩

/-- Every word, command or not, keeps every transfer legal. -/
theorem runWord_keeps_traceLegal {w : Word} {s t : State} (h : TraceLegal s) (ht : runWord w s = .next t) :
    TraceLegal t := by
  rcases runWord_cases ht with ⟨i, -, hi⟩ | ⟨c, -, rfl⟩
  · exact h.append (exec_outside hi).1 (exec_transfers hi) (made_legal i s)
  · exact h.append rfl rfl (List.forall_mem_singleton.2 (errorResp_legal _ c))

/-- Settles O20: a word adds legal transfers, a cut command some of those its word adds, and nothing else adds any. -/
theorem everyStepShowsOnlyLegalEvents : Obligations.EveryStepShowsOnlyLegalEvents := by
  unfold Obligations.EveryStepShowsOnlyLegalEvents
  intro s t h ht
  rcases step_cases ht with ⟨-, rfl⟩ | ⟨w, e, rest, -, hrun⟩ | ⟨rest, -, rfl⟩ | ⟨w, e, c, rest, u, -, hrun, rfl⟩
  · exact h
  · exact runWord_keeps_traceLegal (s := accept e rest s) h hrun
  · exact h
  · have hparams := (runWord_outside hrun).1
    have hu := runWord_keeps_traceLegal (s := accept e rest s) h hrun
    refine h.append (l := ((u.transfers.drop s.transfers.length).dropLast).take (cutAt e c)) rfl rfl fun x hx => ?_
    have hmem := List.mem_of_mem_drop (List.mem_of_mem_dropLast (List.mem_of_mem_take hx))
    have hlegal := hu x hmem
    rwa [hparams] at hlegal

end Sys2Proof.Machine

namespace Sys2Proof

/-- A word is a command exactly when its opcode names one and its zero fields are zero (R75). -/
theorem decode_eq_instr_iff {w : Word} {i : Instr} :
    decode w = .instr i ↔ (Fields.ofWord w).command = some i ∧ (Fields.ofWord w).mustBeZero = true := by
  rw [decode, Fields.decoded]
  cases (Fields.ofWord w).command with
  | none => simp
  | some k => cases (Fields.ofWord w).mustBeZero <;> simp

/-- A word that decodes to a command is the word the encoder gives it (R72, R76). -/
theorem encode_of_decode {w : Word} {i : Instr} (h : decode w = .instr i) : encode i = w := by
  obtain ⟨hcommand, hzero⟩ := decode_eq_instr_iff.1 h
  rw [encode, Fields.eq_of_command hcommand hzero, Fields.toWord_ofWord]

/-- Settles O3: the fields of a decoded word are those of its command. -/
theorem encodeOfDecodeIsTheWord : Obligations.EncodeOfDecodeIsTheWord := by
  unfold Obligations.EncodeOfDecodeIsTheWord
  exact fun w i => encode_of_decode

/-- The word of a command as a number: no command uses RSV0 or RSV1 (R70, R74). -/
theorem encode_eq_ofNat (i : Instr) : encode i = BitVec.ofNat 64
    (i.fields.n.toNat * 2 ^ 32 + i.fields.b.toNat * 2 ^ 16 + i.fields.a.toNat * 2 ^ 8 + i.fields.op.toNat) := by
  have hrsv : i.fields.rsv1 = 0 ∧ i.fields.rsv0 = 0 := by cases i <;> exact ⟨rfl, rfl⟩
  have hword := congrArg (BitVec.ofNat 64) (Fields.toWord_toNat i.fields)
  simpa [hrsv, encode] using hword

theorem encode_blob (n : Addr) : encode (.blob n) = BitVec.ofNat 64 (n.toNat * 2 ^ 32 + 1) := by
  simp [encode_eq_ofNat, Instr.fields]

theorem encode_frame (n : Addr) : encode (.frame n) = BitVec.ofNat 64 (n.toNat * 2 ^ 32 + 2) := by
  simp [encode_eq_ofNat, Instr.fields]

theorem encode_sample (n : Addr) : encode (.sample n) = BitVec.ofNat 64 (n.toNat * 2 ^ 32 + 3) := by
  simp [encode_eq_ofNat, Instr.fields]

theorem encode_dispatch (flags len : Byte) :
    encode (.dispatch flags len) = BitVec.ofNat 64 (len.toNat * 2 ^ 16 + (flags.toNat * 2 ^ 8 + 4)) := by
  simp [encode_eq_ofNat, Instr.fields, Nat.add_assoc]

/-- Setting the bits below a shifted field is adding them. -/
theorem shiftLeft_or_eq_ofNat {k j y : Nat} (x : BitVec k) (hy : y < 2 ^ j) :
    x.setWidth 64 <<< j ||| BitVec.ofNat 64 y = BitVec.ofNat 64 (x.toNat * 2 ^ j + y) := by
  have hshift : x.setWidth 64 <<< j = BitVec.ofNat 64 (x.toNat <<< j) := by
    apply BitVec.eq_of_toNat_eq
    rw [BitVec.toNat_shiftLeft, BitVec.toNat_setWidth, BitVec.toNat_ofNat, Nat.shiftLeft_eq, Nat.shiftLeft_eq,
      Nat.mod_mul_mod]
  rw [hshift, ← BitVec.ofNat_or, ← Nat.shiftLeft_add_eq_or_of_lt hy, Nat.shiftLeft_eq]

/-- Settles O4: both sides are the same number. -/
theorem encodedWordIsTheTablesExpression : Obligations.EncodedWordIsTheTablesExpression := by
  unfold Obligations.EncodedWordIsTheTablesExpression
  refine ⟨rfl, fun n => ?_, fun n => ?_, fun n => ?_, fun flags len => ?_, rfl, encode_readreg⟩
  · exact (encode_blob n).trans (shiftLeft_or_eq_ofNat n (by decide)).symm
  · exact (encode_frame n).trans (shiftLeft_or_eq_ofNat n (by decide)).symm
  · exact (encode_sample n).trans (shiftLeft_or_eq_ofNat n (by decide)).symm
  · have hflags := flags.isLt
    rw [encode_dispatch, ← shiftLeft_or_eq_ofNat len (by omega), ← shiftLeft_or_eq_ofNat flags (by decide),
      BitVec.or_assoc]
    rfl

/-- Opcodes 0 to 6 name a command (R73). -/
theorem Fields.exists_command {f : Fields} (h : f.op.toNat ≤ 6) : ∃ i, f.command = some i := by
  rw [← Option.ne_none_iff_exists', Ne, Fields.command_eq_none]
  omega

end Sys2Proof

namespace Sys2Proof.Machine

/-- Settles O7: the field checks are the decoder's, on the word's fields as numbers. -/
theorem wordPassingTheFieldChecksExecutes : Obligations.WordPassingTheFieldChecksExecutes := by
  unfold Obligations.WordPassingTheFieldChecksExecutes
  intro w op a b n hop hrsv0 hrsv1 ha hb hn
  obtain ⟨hop', hrsv0', ha', hb', hrsv1', hn'⟩ := Fields.ofWord_toNat w
  have hle : (Fields.ofWord w).op.toNat ≤ 6 := by rw [hop']; exact hop
  obtain ⟨i, hcommand⟩ := Fields.exists_command hle
  have hzero : (Fields.ofWord w).mustBeZero = true := by
    rw [Fields.mustBeZero_iff _ hle]
    simp only [← BitVec.toNat_inj, hop', hrsv0', ha', hb', hrsv1', hn']
    exact ⟨hrsv0, hrsv1, ha, hb, hn⟩
  have hdecode := decode_eq_instr_iff.2 ⟨hcommand, hzero⟩
  exact ⟨i, hdecode, encode_of_decode hdecode, runWord_of_instr hdecode⟩

/-! ### The value checks (R75, item 3) -/

/-- The indices 0x00 to 0x07 are assigned (R36). -/
theorem regValue_assigned (s : State) {idx : Byte} (h : idx.toNat ≤ 7) : ∃ v, regValue s idx = some v := by
  unfold regValue
  generalize idx.toNat = k at h
  interval_cases k <;> exact ⟨_, rfl⟩

/-- DISPATCH of a length above M raises cause 3. -/
theorem exec_dispatch_of_tooLong {s : State} {len : Byte} (h : s.params.maxFramePayload < len.toNat) (flags : Byte) :
    exec (.dispatch flags len) s = .next (raise .frameTooLong s) := by
  simp only [exec, execDispatch, frameTooLong, decide_eq_true h, if_true]

/-- The commands that fail a value check raise its cause (R204, R205). -/
theorem exec_of_not_wellFormed {i : Instr} {s : State} (h : i.wellFormed s.params.maxFramePayload = false) :
    (∃ flags len, i = .dispatch flags len ∧ exec i s = .next (raise .frameTooLong s)) ∨
      (∃ idx, i = .readreg idx ∧ exec i s = .next (raise .badRegIndex s)) := by
  cases i with
  | dispatch flags len =>
    have hlen : s.params.maxFramePayload < len.toNat := Nat.not_le.1 (of_decide_eq_false h)
    exact .inl ⟨flags, len, rfl, exec_dispatch_of_tooLong hlen flags⟩
  | readreg idx =>
    have hidx : 8 ≤ idx.toNat := Nat.not_le.1 (of_decide_eq_false h)
    exact .inr ⟨idx, rfl, exec_readreg_of_none (regValue_unassigned s hidx)⟩
  | nop => cases h
  | blob n => cases h
  | frame n => cases h
  | sample n => cases h
  | smpStart => cases h

/-- The last transfer of a command that passes its value check is an OK response. -/
theorem made_getLast?_of_wellFormed {i : Instr} {s : State} (h : i.wellFormed s.params.maxFramePayload = true) :
    ∃ v, (made i s).getLast? = some (okResp v) := by
  cases i with
  | nop => exact ⟨0, rfl⟩
  | blob n => exact ⟨0, by rw [made, ← List.append_assoc, List.getLast?_concat]⟩
  | frame n => exact ⟨0, by rw [made, List.getLast?_concat]⟩
  | sample n => exact ⟨0, by rw [made, List.getLast?_concat]⟩
  | dispatch flags len =>
    have hlen : ¬ s.params.maxFramePayload < len.toNat := Nat.not_lt.2 (of_decide_eq_true h)
    exact ⟨0, by rw [made, if_neg hlen, ← List.append_assoc, List.getLast?_concat]⟩
  | smpStart => exact ⟨0, rfl⟩
  | readreg idx =>
    obtain ⟨v, hv⟩ := regValue_assigned s (of_decide_eq_true h)
    exact ⟨v, by simp only [made, hv]; rfl⟩

/-- A command that passes its value check keeps STATUS and answers OK. -/
theorem exec_of_wellFormed {i : Instr} {s t : State} (h : i.wellFormed s.params.maxFramePayload = true)
    (ht : exec i s = .next t) : SameStatus s t ∧ ∃ v, t.transfers.getLast? = some (okResp v) := by
  obtain ⟨v, hv⟩ := made_getLast?_of_wellFormed h
  have hlast : t.transfers.getLast? = some (okResp v) := by
    rw [exec_transfers ht, List.getLast?_append, hv]
    rfl
  rcases exec_ok_or_raise ht with ⟨c, rfl⟩ | ⟨hstatus, -⟩
  · rw [raise_getLast?] at hlast
    cases hlast
  · exact ⟨hstatus, v, hlast⟩

/-- Settles O8: every command has a next state, and the value check tells which. -/
theorem valueChecksDecideTheResponse : Obligations.ValueChecksDecideTheResponse := by
  unfold Obligations.ValueChecksDecideTheResponse
  intro i s
  obtain ⟨t, ht, -⟩ := exec_spec i s
  refine ⟨t, ht, fun h => exec_of_wellFormed h ht, fun h => ?_⟩
  rcases exec_of_not_wellFormed h with ⟨flags, len, hi, hraise⟩ | ⟨idx, hi, hraise⟩
  · rw [ht] at hraise
    cases hraise
    exact .inl ⟨flags, len, hi, rfl⟩
  · rw [ht] at hraise
    cases hraise
    exact .inr ⟨idx, hi, rfl⟩

/-! ### The frame bus (R81) -/

/-- A legal frame serializes to 2 + M bytes. -/
theorem Frame.bytes_length {f : Frame} {M : Nat} (h : f.legal M) : f.bytes.length = 2 + M := by
  obtain ⟨-, hpayload, -⟩ := h
  simp only [Frame.bytes, List.length_cons, hpayload]
  omega

/-- Settles O53: the bytes in order, and `busNumber_at` for their places on the bus. -/
theorem frameBusPlacesEachByte : Obligations.FrameBusPlacesEachByte := by
  unfold Obligations.FrameBusPlacesEachByte
  refine fun f => ⟨rfl, rfl, fun k => ?_, fun M => Frame.bytes_length, busNumber_at f.bytes⟩
  rw [Nat.add_comm]
  rfl

/-! ### The assembler (R85) -/

/-- The largest operand a field takes. -/
theorem asmField_eq (w v : Nat) : asmField w v = if v ≤ 2 ^ w - 1 then some (BitVec.ofNat w v) else none := by
  have hpos := Nat.two_pow_pos w
  exact if_congr (by omega) rfl rfl

/-- A line with one operand: the field's word as a function of the operand, or the refusal. -/
theorem asmField_map {w : Nat} {word : BitVec w → Word} {number : Nat → Nat}
    (hword : ∀ x, word x = BitVec.ofNat 64 (number x.toNat)) (v : Nat) :
    (asmField w v).map word = if v ≤ 2 ^ w - 1 then some (BitVec.ofNat 64 (number v)) else none := by
  have hpos := Nat.two_pow_pos w
  rw [asmField_eq]
  split
  · rw [Option.map_some, hword, BitVec.toNat_ofNat, Nat.mod_eq_of_lt (by omega)]
  · rfl

/-- DISPATCH's line: two byte operands, each refused above 255. -/
theorem assemble_dispatch (fl len : Nat) : assemble (.dispatch fl len) =
    if fl ≤ 255 ∧ len ≤ 255 then some (BitVec.ofNat 64 (len * 2 ^ 16 + fl * 2 ^ 8 + 4)) else none := by
  have hlen := asmField_map (w := 8) (word := fun y => encode (.dispatch (BitVec.ofNat 8 fl) y))
    (number := fun y => y * 2 ^ 16 + ((BitVec.ofNat 8 fl).toNat * 2 ^ 8 + 4)) (encode_dispatch _) len
  rw [assemble, asmField_eq 8 fl]
  by_cases hfl : fl ≤ 2 ^ 8 - 1
  · rw [if_pos hfl, Option.bind_some, hlen, BitVec.toNat_ofNat, Nat.mod_eq_of_lt (by omega), ← Nat.add_assoc]
    exact if_congr (by omega) rfl rfl
  · rw [if_neg hfl, Option.bind_none, if_neg (by omega)]

/-- Settles O56: line by line, a command's word is its number, on the operands that fit. -/
theorem assemblerGivesTheWordOrRefuses : Obligations.AssemblerGivesTheWordOrRefuses := by
  unfold Obligations.AssemblerGivesTheWordOrRefuses
  refine ⟨fun n => ?_, fun n => ?_, fun n => ?_, assemble_dispatch, fun idx => ?_, rfl, rfl, fun w => ?_⟩
  · exact asmField_map (number := fun n => n * 2 ^ 32 + 1) encode_blob n
  · exact asmField_map (number := fun n => n * 2 ^ 32 + 2) encode_frame n
  · exact asmField_map (number := fun n => n * 2 ^ 32 + 3) encode_sample n
  · exact asmField_map (number := fun n => n * 2 ^ 8 + 6)
      (fun x => by simp [encode_eq_ofNat, Instr.fields]) idx
  · rw [assemble, asmField, if_pos w.isLt, BitVec.ofNat_toNat, BitVec.setWidth_eq]

end Sys2Proof.Machine

namespace Sys2Proof

/-! ### The example words (R87) -/

theorem decode_of_encode_eq {w : Word} {i : Instr} (h : encode i = w) : decode w = .instr i := by
  rw [← h, decode_encode]

/-- Settles O1: each word is the one the encoder writes for its command. -/
theorem exampleWordsDecode : Obligations.ExampleWordsDecode := by
  unfold Obligations.ExampleWordsDecode
  exact ⟨decode_of_encode_eq rfl, decode_of_encode_eq rfl, decode_of_encode_eq rfl, decode_of_encode_eq rfl,
    decode_of_encode_eq rfl, decode_of_encode_eq rfl, decode_of_encode_eq rfl⟩

end Sys2Proof

namespace Sys2Proof.Machine

/-! ### The flags byte and the response bus (R82, R84) -/

/-- Settles O52: the byte is a number, and each sub-field a quotient and remainder of it. -/
theorem flagsByteHoldsItsThreeSubfields : Obligations.FlagsByteHoldsItsThreeSubfields := by
  unfold Obligations.FlagsByteHoldsItsThreeSubfields
  intro ff fi sq
  have hbyte := flagsByte_toNat ff fi sq
  have hff := ff.isLt
  have hfi := fi.isLt
  have hsq := sq.isLt
  refine ⟨by omega, ?_, ?_, ?_⟩ <;> apply BitVec.eq_of_toNat_eq
  · rw [fragFlagOf, BitVec.extractLsb'_toNat, hbyte, Nat.shiftRight_eq_div_pow]
    omega
  · rw [fragIdxOf, BitVec.extractLsb'_toNat, hbyte, Nat.shiftRight_eq_div_pow]
    omega
  · rw [seqIdOf, BitVec.extractLsb'_toNat, hbyte, Nat.shiftRight_eq_div_pow]
    omega

/-- Settles O54: the bus is status, cause and value, one above the other. -/
theorem responseBusPlacesEachField : Obligations.ResponseBusPlacesEachField := by
  unfold Obligations.ResponseBusPlacesEachField
  intro st c v
  refine ⟨BitVec.extractLsb'_append_eq_left, ?_, ?_⟩
  · rw [respBus, BitVec.extractLsb'_append_eq_of_add_le (by decide)]
    exact BitVec.extractLsb'_append_eq_left
  · rw [respBus, BitVec.extractLsb'_append_eq_of_add_le (by decide)]
    exact BitVec.extractLsb'_append_eq_right

end Sys2Proof.Machine

/-! ## The packet framer: what FRAME and BLOB show (40_packet_framer.md) -/

namespace Sys2Proof.Machine

/-! ### What a framing command leaves, and its response -/

/-- A framing command counts its blob in SEQ and its fragments in FRAG (R105, R106). -/
theorem exec_framing {i : Instr} {n : Addr} {s t : State} (hi : i = .frame n ∨ i = .blob n)
    (ht : exec i s = .next t) : t.seq = s.seq + 1 ∧ t.frag = fragAfter n.toNat s.params.maxFramePayload := by
  obtain ⟨hseq, hfrag⟩ := (exec_next ht).sameFramer
  rw [← hseq, ← hfrag]
  exact after_framing hi.symm s

/-- The last transfer of a framing command is the response OK with value 0 (R101, R172). -/
theorem exec_framing_getLast? {i : Instr} {n : Addr} {s t : State} (hi : i = .frame n ∨ i = .blob n)
    (ht : exec i s = .next t) : t.transfers.getLast? = some (okResp 0) := by
  rw [exec_transfers ht]
  rcases hi with rfl | rfl
  · rw [made, ← List.append_assoc, List.getLast?_concat]
  · rw [made, ← List.append_assoc, ← List.append_assoc, List.getLast?_concat]

/-- Settles O37: `after` and `made` say what FRAME leaves and transfers, and its hook leaves SNAP and J alone. -/
theorem frameShowsTheFramesOfTheBlob : Obligations.FrameShowsTheFramesOfTheBlob := by
  unfold Obligations.FrameShowsTheFramesOfTheBlob
  intro n s
  obtain ⟨t, ht, hleft⟩ := exec_spec (.frame n) s
  obtain ⟨hseq, hfrag⟩ := exec_framing (.inl rfl) ht
  have hsampler : SameSampler s t := (after_sameSampler rfl s).trans hleft.sameSampler.symm
  obtain ⟨hstatus, -⟩ := exec_of_wellFormed (i := .frame n) rfl ht
  exact ⟨t, ht, exec_transfers ht, hseq, hfrag, exec_outside ht, hsampler, hstatus, execFrame_mux ht⟩

/-! ### The frames shown -/

/-- The frames a framing command shows are those of the closed form, in order (R102, R104). -/
theorem frames_exec {i : Instr} {n : Addr} {s t : State} (hi : i = .frame n ∨ i = .blob n)
    (ht : exec i s = .next t) : framesOf (newTransfers s t) =
      (List.range (frameCount n.toNat s.params.maxFramePayload)).map (blobFrame s.params s.env s.seq n.toNat) := by
  rw [exec_newTransfers ht, frames_made hi]

/-- A frame shown is one of the closed form. -/
theorem mem_frames_exec {i : Instr} {n : Addr} {s t : State} {f : Frame} (hi : i = .frame n ∨ i = .blob n)
    (ht : exec i s = .next t) (hf : f ∈ framesOf (newTransfers s t)) :
    ∃ k < frameCount n.toNat s.params.maxFramePayload, f = blobFrame s.params s.env s.seq n.toNat k := by
  rw [frames_exec hi ht] at hf
  obtain ⟨k, hk, rfl⟩ := List.mem_map.1 hf
  exact ⟨k, List.mem_range.1 hk, rfl⟩

/-- Frame k shown is frame k of the closed form. -/
theorem eq_blobFrame_of_frames_exec {i : Instr} {n : Addr} {s t : State} {k : Nat} {f : Frame}
    (hi : i = .frame n ∨ i = .blob n) (ht : exec i s = .next t) (hf : (framesOf (newTransfers s t))[k]? = some f) :
    f = blobFrame s.params s.env s.seq n.toNat k := by
  obtain ⟨hk, rfl⟩ := List.getElem?_eq_some_iff.1 hf
  simp [frames_exec hi ht]

/-- A legal frame has as many valid bytes as its length says (R80). -/
theorem Frame.valid_length {f : Frame} {M : Nat} (h : f.legal M) : f.valid.length = f.length.toNat := by
  obtain ⟨hle, hpayload, -⟩ := h
  rw [Frame.valid, List.length_take, hpayload, Nat.min_eq_left hle]

/-- The round-trip law (R107): the valid bytes of the frames shown are the blob. -/
theorem valid_frames_exec {i : Instr} {n : Addr} {s t : State} (hi : i = .frame n ∨ i = .blob n)
    (ht : exec i s = .next t) :
    (framesOf (newTransfers s t)).flatMap Frame.valid = (List.range n.toNat).map s.readByte := by
  rw [frames_exec hi ht, List.flatMap_map]
  exact (List.flatMap_congr fun k hk => valid_blobFrame (List.mem_range.1 hk)).trans
    (frames_tile s.readByte s.params.maxFramePayload_pos)

/-- Settles O38: the frames tile the blob, so their lengths add up to the blob's. -/
theorem framesCarryExactlyTheBlob : Obligations.FramesCarryExactlyTheBlob := by
  unfold Obligations.FramesCarryExactlyTheBlob
  intro i n s t hi ht
  have hvalid := valid_frames_exec hi ht
  refine ⟨hvalid, ?_, ?_⟩
  · have hlengths : ∀ f ∈ framesOf (newTransfers s t), f.length.toNat = f.valid.length := by
      intro f hf
      obtain ⟨k, hk, rfl⟩ := mem_frames_exec hi ht hf
      exact (Frame.valid_length (blobFrame_legal hk)).symm
    rw [List.map_congr_left hlengths, ← List.length_flatMap, hvalid, List.length_map, List.length_range]
  · rw [frames_exec hi ht, List.length_map, List.length_range]
    rfl

/-! ### Lengths (R108) -/

/-- Every frame of a blob that is not empty carries at least one byte. -/
theorem frameLength_pos {n M i : Nat} (hM : 1 ≤ M) (hn : 1 ≤ n) (hi : i < frameCount n M) :
    1 ≤ frameLength n M i := by
  by_cases h : n < M
  · rw [frameLength, if_pos h]
    exact hn
  · rw [frameCount, if_neg h] at hi
    have hstart := (lt_fragmentCount hM).1 hi
    rw [← min_eq_frameLength hM h hi]
    omega

/-- Settles O39: each frame shown is a legal frame of the closed form, and only the empty blob has an empty one. -/
theorem frameLengthsStayInBounds : Obligations.FrameLengthsStayInBounds := by
  unfold Obligations.FrameLengthsStayInBounds
  intro i n s t hi ht f hf
  have hM := s.params.maxFramePayload_pos
  obtain ⟨k, hk, rfl⟩ := mem_frames_exec hi ht hf
  have hpos (hn : 1 ≤ n.toNat) := frameLength_pos hM hn hk
  rw [← blobFrame_len (e := s.env) (sq := s.seq) hk] at hpos
  obtain ⟨hle, -, -⟩ := blobFrame_legal (e := s.env) (sq := s.seq) hk
  refine ⟨hle, fun hn => hpos (hM.trans hn), fun hzero => ?_⟩
  rw [hzero] at hpos
  exact BitVec.eq_of_toNat_eq (Nat.eq_zero_of_not_pos fun hn => absurd (hpos hn) (by decide))

/-! ### A blob of exactly M bytes (R110) -/

theorem fragmentCount_self {M : Nat} (hM : 1 ≤ M) : fragmentCount M M = 1 :=
  Nat.div_eq_of_lt_le (by omega) (by omega)

theorem frameCount_self {M : Nat} (hM : 1 ≤ M) : frameCount M M = 1 := by
  rw [frameCount, if_neg (Nat.lt_irrefl M), fragmentCount_self hM]

theorem frameLength_self {M : Nat} (hM : 1 ≤ M) : frameLength M M 0 = M := by
  simp [frameLength, fragmentCount_self hM]

/-- Settles O41: the closed form for n = M is one frame of the fragmented path. -/
theorem blobOfExactlyOnePayloadIsFragmented : Obligations.BlobOfExactlyOnePayloadIsFragmented := by
  unfold Obligations.BlobOfExactlyOnePayloadIsFragmented
  intro i n s hi hn
  obtain ⟨t, ht, -⟩ := exec_spec i s
  have hM := s.params.maxFramePayload_pos
  have hcount : frameCount n.toNat s.params.maxFramePayload = 1 := by rw [hn, frameCount_self hM]
  have hflags : (blobFrame s.params s.env s.seq n.toNat 0).flags = flagsByte 1 0 s.seq :=
    (flags_eq_frameFlags (Nat.not_lt.2 hn.ge) s.seq).symm
  obtain ⟨-, hfragFlag, -, -⟩ := flagsByteHoldsItsThreeSubfields 1 0 s.seq
  refine ⟨t, blobFrame s.params s.env s.seq n.toNat 0, ht, ?_, ?_, hflags, by rw [hflags, hfragFlag]⟩
  · rw [frames_exec hi ht, hcount]
    rfl
  · rw [blobFrame_len (by omega), hn, frameLength_self hM]

/-! ### More than four fragments (R111) -/

theorem frameFlags_add_four (n M sq k : Nat) : frameFlags n M sq (k + 4) = frameFlags n M sq k := by
  rw [frameFlags, frameFlags, Nat.add_mod_right]

/-- Settles O42: frame k of the closed form takes its flags from k modulo 4. -/
theorem flagsRepeatEveryFourFragments : Obligations.FlagsRepeatEveryFourFragments := by
  unfold Obligations.FlagsRepeatEveryFourFragments
  intro i n s hi
  obtain ⟨t, ht, -⟩ := exec_spec i s
  refine ⟨t, ht, exec_framing_getLast? hi ht, fun k f g hf hg => ?_⟩
  rw [eq_blobFrame_of_frames_exec hi ht hf, eq_blobFrame_of_frames_exec hi ht hg, blobFrame, blobFrame,
    frameFlags_add_four]

/-! ### SEQ over a run of framing commands (R106, R107) -/

theorem framesBlob_cases {i : Instr} (h : framesBlob i = true) : ∃ n, i = .frame n ∨ i = .blob n := by
  cases i with
  | blob n => exact ⟨n, .inr rfl⟩
  | frame n => exact ⟨n, .inl rfl⟩
  | _ => cases h

theorem execAll_cons_of_next {i : Instr} {s t : State} (h : exec i s = .next t) (is : List Instr) :
    execAll (i :: is) s = execAll is t := by
  simp only [execAll, h]

/-- A run of framing commands adds one to SEQ for each. -/
theorem execAll_framing_seq (is : List Instr) (s : State) (h : ∀ i ∈ is, framesBlob i = true) :
    ∃ t, execAll is s = .next t ∧ t.seq = s.seq + BitVec.ofNat 5 is.length := by
  induction is generalizing s with
  | nil => exact ⟨s, rfl, (BitVec.add_zero _).symm⟩
  | cons i is ih =>
    obtain ⟨hi, his⟩ := List.forall_mem_cons.1 h
    obtain ⟨n, hn⟩ := framesBlob_cases hi
    obtain ⟨t, ht, -⟩ := exec_spec i s
    obtain ⟨hseq, -⟩ := exec_framing hn ht
    obtain ⟨u, hu, hu'⟩ := ih t his
    refine ⟨u, (execAll_cons_of_next ht is).trans hu, ?_⟩
    rw [hu', hseq, List.length_cons, BitVec.ofNat_add, BitVec.add_assoc, BitVec.add_comm 1]
    rfl

/-- Settles O44: SEQ has five bits, so the count is modulo 32. -/
theorem seqCountsFramedBlobsModulo32 : Obligations.SeqCountsFramedBlobsModulo32 := by
  unfold Obligations.SeqCountsFramedBlobsModulo32
  intro is s h
  obtain ⟨t, ht, hseq⟩ := execAll_framing_seq is s h
  refine ⟨t, ht, ?_, fun hlen => ?_⟩
  · rw [hseq, BitVec.toNat_add, BitVec.toNat_ofNat, Nat.add_mod_mod]
  · rw [hseq, hlen]
    exact BitVec.add_zero _

/-! ### The empty blob (R109) -/

/-- An unfragmented frame's flags hold the sequence value only (R103). -/
theorem flagsByte_unfragmented (sq : BitVec 5) : flagsByte 0 0 sq = sq.setWidth 8 <<< 3 := by
  simp [flagsByte]

/-- The one frame of the empty blob. -/
theorem blobFrame_empty (p : Params) (e : Env) (sq : BitVec 5) :
    blobFrame p e sq 0 0 = ⟨0, sq.setWidth 8 <<< 3, List.replicate p.maxFramePayload 0⟩ := by
  have hM : 0 < p.maxFramePayload := p.maxFramePayload_pos
  have hlength : frameLength 0 p.maxFramePayload 0 = 0 := if_pos hM
  have hpayload : framePayload e 0 p.maxFramePayload 0 = List.replicate p.maxFramePayload 0 := by
    simp [framePayload, hlength]
  rw [blobFrame, hlength, hpayload, ← flags_eq_soleFlags hM, flagsByte_unfragmented]
  rfl

/-- Settles O40: the closed form for n = 0 is one frame, and the input of the command is empty. -/
theorem emptyBlobIsOneEmptyFrame : Obligations.EmptyBlobIsOneEmptyFrame := by
  unfold Obligations.EmptyBlobIsOneEmptyFrame
  intro i s hi
  obtain ⟨t, ht, -⟩ := exec_spec i s
  obtain ⟨hseq, -⟩ := exec_framing hi ht
  have hcount : frameCount (0 : Addr).toNat s.params.maxFramePayload = 1 := if_pos s.params.maxFramePayload_pos
  have hinput : inputLength s.params.maxFramePayload i = 0 := by rcases hi with rfl | rfl <;> rfl
  refine ⟨t, ht, ?_, ?_, exec_framing_getLast? hi ht, hseq⟩
  · rw [frames_exec hi ht, hcount, ← blobFrame_empty s.params s.env s.seq]
    rfl
  · rw [exec_newTransfers ht, reads_made, hinput]
    rfl

/-! ### The worked example (R113) -/

/-- Settles O43: the closed form for n = 450 and M = 180. -/
theorem blobOf450BytesMakesThreeFrames : Obligations.BlobOf450BytesMakesThreeFrames := by
  unfold Obligations.BlobOf450BytesMakesThreeFrames
  intro i s hi hM
  obtain ⟨t, ht, -⟩ := exec_spec i s
  obtain ⟨hseq, -⟩ := exec_framing hi ht
  have hframes : framesOf (newTransfers s t) =
      [0, 1, 2].map (blobFrame s.params s.env s.seq 450) := by
    rw [frames_exec hi ht, hM]
    rfl
  have hflags (k : Nat) : BitVec.ofNat 8 (frameFlags 450 180 s.seq.toNat k) =
      flagsByte 1 (BitVec.ofNat 2 k) s.seq := (flags_eq_frameFlags (by decide) s.seq).symm
  refine ⟨t, ht, ?_, ?_, hseq⟩
  · simp only [hframes, List.map_map, Function.comp_def, blobFrame, hM]
    rfl
  · simp only [hframes, List.map_map, Function.comp_def, blobFrame, hM, hflags]
    rfl

end Sys2Proof.Machine

/-! ## The bandwidth sampler: SAMPLE and SMP_START (41_bandwidth_sampler.md) -/

namespace Sys2Proof

/-! ### A word of a command's opcode -/

/-- A word whose opcode names a command, but which is not that command's one word, raises cause 2 (R72, R75, R203). -/
theorem decode_of_command_of_ne_encode {w : Word} {i : Instr} (hcommand : (Fields.ofWord w).command = some i)
    (hw : w ≠ encode i) : decode w = .error .reservedField := by
  have hzero : ¬ (Fields.ofWord w).mustBeZero = true := fun h =>
    hw (encode_of_decode (decode_eq_instr_iff.2 ⟨hcommand, h⟩)).symm
  rw [decode, Fields.decoded, hcommand]
  exact if_neg hzero

end Sys2Proof

namespace Sys2Proof.Machine

/-! ### What SAMPLE leaves (R131) -/

/-- An arrival closes the window when the timer runs and more than 1000 ms have elapsed. -/
theorem windowCloses_iff {s : State} {now : Word} :
    windowCloses s now = true ↔ s.timerValid = true ∧ 1000 < now.toNat - s.windowStart.toNat := by
  rw [windowCloses, Bool.and_eq_true, decide_eq_true_eq]

theorem exec_sample (n : Addr) (s : State) :
    exec (.sample n) s = .next
      { afterArrival n s with transfers := s.transfers ++ (arrivalTransfers s n ++ [okResp 0]) } :=
  execSample_spec n s

/-- SAMPLE with the timer stopped only responds. -/
theorem exec_sample_of_stopped {s : State} (h : s.timerValid = false) (n : Addr) :
    exec (.sample n) s = .next { s with transfers := s.transfers ++ [.event (.resp 0 0 0)] } := by
  have hopen : ¬ windowCloses s s.env.nowMs = true := by simp [windowCloses_iff, h]
  rw [exec_sample, afterArrival_of_stopped h, arrivalTransfers, if_neg hopen]
  rfl

/-- SAMPLE inside the window counts the arrival. -/
theorem exec_sample_of_open {s : State} (hrun : s.timerValid = true) (hopen : ¬ windowCloses s s.env.nowMs = true)
    (n : Addr) :
    exec (.sample n) s = .next
      { s with
        byteTotal := s.byteTotal + n.setWidth 64, transfers := s.transfers ++ [.event (.resp 0 0 0)] } := by
  rw [exec_sample, afterArrival, arrivalTransfers, if_neg hopen, if_neg hopen, if_pos hrun]
  rfl

/-- SAMPLE that closes the window publishes its rate and starts the next one. -/
theorem exec_sample_of_closes {s : State} (hcloses : windowCloses s s.env.nowMs = true) (n : Addr) :
    exec (.sample n) s = .next
      { s with
        byteTotal := 0, windowStart := s.env.nowMs, rateSnapshot := arrivalRate s n s.env.nowMs,
        transfers := s.transfers ++ [.event (.rateOut (arrivalRate s n s.env.nowMs)), .event (.resp 0 0 0)] } := by
  rw [exec_sample, afterArrival, arrivalTransfers, if_pos hcloses, if_pos hcloses]
  rfl

/-- The rate published is the exact floor: with 1000 ms elapsed or more it is at most the byte total, so it fits (R132). -/
theorem arrivalRate_toNat {s : State} {now : Word} (h : 1000 ≤ now.toNat - s.windowStart.toNat) (c : Addr) :
    (arrivalRate s c now).toNat =
      (s.byteTotal + c.setWidth 64).toNat * 1000 / (now.toNat - s.windowStart.toNat) := by
  have hle : (s.byteTotal + c.setWidth 64).toNat * 1000 / (now.toNat - s.windowStart.toNat) ≤
      (s.byteTotal + c.setWidth 64).toNat :=
    Nat.div_le_of_le_mul (by rw [Nat.mul_comm]; exact Nat.mul_le_mul_right _ h)
  rw [arrivalRate, BitVec.toNat_ofNat]
  exact Nat.mod_eq_of_lt (hle.trans_lt (BitVec.isLt _))

/-- Settles O36: the timer stopped, the window open, the window closed by this arrival. -/
theorem sampleAccountsForAnArrival : Obligations.SampleAccountsForAnArrival := by
  unfold Obligations.SampleAccountsForAnArrival
  intro n s total elapsed
  refine ⟨fun hstopped => exec_sample_of_stopped hstopped n, fun hrun hle => ?_, fun hrun hlt => ?_⟩
  · have hopen : ¬ windowCloses s s.env.nowMs = true := fun h => Nat.not_lt.2 hle (windowCloses_iff.1 h).2
    exact exec_sample_of_open hrun hopen n
  · exact ⟨arrivalRate s n s.env.nowMs, arrivalRate_toNat (Nat.le_of_lt hlt) n,
      exec_sample_of_closes (windowCloses_iff.2 ⟨hrun, hlt⟩) n⟩

/-! ### SMP_START (R134) -/

/-- Settles O35: the rule writes the three registers and responds, and a word of its opcode is its own word or breaks a
zero field. -/
theorem smpStartRestartsTheWindow : Obligations.SmpStartRestartsTheWindow := by
  unfold Obligations.SmpStartRestartsTheWindow
  refine ⟨fun s => rfl, rfl, fun w hop hw => ?_⟩
  have hop' : (Fields.ofWord w).op.toNat = 5 := (Fields.ofWord_toNat w).1.trans hop
  have hcommand : (Fields.ofWord w).command = some .smpStart := by simp only [Fields.command, hop']
  exact decode_of_command_of_ne_encode hcommand hw

end Sys2Proof.Machine

/-! ## The frame dispatcher: DISPATCH and the procedure DISPATCHER (42_frame_dispatcher.md) -/

namespace Sys2Proof.Machine

/-! ### What DISPATCH transfers (R150) -/

/-- A DISPATCH whose length passes the check reads its bytes, dispatches its frame and responds. -/
theorem made_dispatch {s : State} {len : Byte} (h : len.toNat ≤ s.params.maxFramePayload) (flags : Byte) :
    made (.dispatch flags len) s =
      ((List.range len.toNat).map fun k => Transfer.blobRd (BitVec.ofNat 32 k)) ++
        (dispatchTransfers s.params s.env 0 (hostFrame s.params s.env flags len) ++ [okResp 0]) :=
  if_neg (Nat.not_lt.2 h)

/-- Such a DISPATCH completes; its trace is the events of one dispatch, then the response OK. -/
theorem exec_dispatch_trace {s : State} {len : Byte} (h : len.toNat ≤ s.params.maxFramePayload) (flags : Byte) :
    ∃ t, exec (.dispatch flags len) s = .next t ∧
      traceOf (newTransfers s t) =
        dispatchEvents s.params s.env 0 (hostFrame s.params s.env flags len) ++ [.resp 0 0 0] ∧
      t.transfers.getLast? = some (.event (.resp 0 0 0)) := by
  obtain ⟨t, ht, -⟩ := exec_spec (.dispatch flags len) s
  refine ⟨t, ht, ?_, ?_⟩
  · rw [exec_newTransfers ht, made_dispatch h, traceOf_append, traceOf_reads, List.nil_append, traceOf_append,
      dispatchTransfers, traceOf_events]
    rfl
  · rw [exec_transfers ht, made_dispatch h, ← List.append_assoc, ← List.append_assoc, List.getLast?_concat]
    rfl

/-- Settles O45: `made` gives the transfers, and `after` leaves every register but the transient ones. -/
theorem dispatchSendsTheHostFrame : Obligations.DispatchSendsTheHostFrame := by
  unfold Obligations.DispatchSendsTheHostFrame
  intro flags len s hlen
  obtain ⟨t, ht, hleft, hoffset⟩ := execDispatch_spec flags len s
  have hexec : exec (.dispatch flags len) s = .next t := ht
  have htransfers := exec_transfers hexec
  rw [made_dispatch hlen] at htransfers
  have hframer : SameFramer s t := (after_sameFramer rfl s).trans hleft.sameFramer.symm
  have hsampler : SameSampler s t := (after_sameSampler rfl s).trans hleft.sameSampler.symm
  have hwell : (Instr.dispatch flags len).wellFormed s.params.maxFramePayload = true := decide_eq_true hlen
  obtain ⟨hstatus, -⟩ := exec_of_wellFormed hwell hexec
  exact ⟨t, hexec, htransfers, exec_outside hexec, hframer, hsampler, hstatus, hoffset⟩

/-! ### Counting resolves and sends (R153, R156) -/

/-- A flatMap whose pieces hold one hit each where b is true, and none elsewhere, has as many hits as b. -/
theorem countP_flatMap_of_countP_eq_toNat {α β : Type} {f : α → List β} {hit : β → Bool} {b : α → Bool}
    (h : ∀ a, (f a).countP hit = (b a).toNat) (l : List α) : (l.flatMap f).countP hit = l.countP b := by
  induction l with
  | nil => rfl
  | cons a l ih =>
    rw [List.flatMap_cons, List.countP_append, h, ih, List.countP_cons, Nat.add_comm]
    cases b a <;> rfl

/-- A destination is resolved once. -/
theorem destinationEvents_countP_isResolve (p : Params) (e : Env) (k : Nat) (f : Frame) (i : Nat) :
    (destinationEvents p e k f i).countP Event.isResolve = true.toNat := by
  unfold destinationEvents
  cases routeOf p e k i <;> rfl

/-- A destination is sent to once if it resolves, else never. -/
theorem destinationEvents_countP_isSend (p : Params) (e : Env) (k : Nat) (f : Frame) (i : Nat) :
    (destinationEvents p e k f i).countP Event.isSend = (routeOf p e k i).isSome.toNat := by
  unfold destinationEvents
  cases routeOf p e k i <;> rfl

/-- The snapshot has one descriptor for each destination answered. -/
theorem snapshotOf_length (p : Params) (e : Env) (k : Nat) : (snapshotOf p e k).length = (answerOf e k).length :=
  List.length_map _

/-- Over the indices of the snapshot, `routeOf` lists the routes answered, as the port carries them. -/
theorem map_routeOf (p : Params) (e : Env) (k : Nat) :
    (List.range (answerOf e k).length).map (routeOf p e k) =
      (answerOf e k).map fun d => d.route.map (routeOnPort p) := by
  apply List.ext_getElem
  · simp
  · intro i h1 h2
    have hi : i < (answerOf e k).length := by simpa using h2
    simp [routeOf, hi]

/-- One dispatch resolves each destination answered. -/
theorem dispatchEvents_countP_isResolve (p : Params) (e : Env) (k : Nat) (f : Frame) :
    (dispatchEvents p e k f).countP Event.isResolve = (answerOf e k).length := by
  rw [dispatchEvents, List.countP_cons_of_neg Bool.false_ne_true,
    countP_flatMap_of_countP_eq_toNat (destinationEvents_countP_isResolve p e k f), List.countP_true,
    List.length_range, snapshotOf_length]

/-- One dispatch sends to each destination answered that resolves. -/
theorem dispatchEvents_countP_isSend (p : Params) (e : Env) (k : Nat) (f : Frame) :
    (dispatchEvents p e k f).countP Event.isSend = (answerOf e k).countP fun d => d.route.isSome := by
  have hroutes := congrArg (List.countP Option.isSome) (map_routeOf p e k)
  simp only [List.countP_map, Function.comp_def, Option.isSome_map] at hroutes
  rw [dispatchEvents, List.countP_cons_of_neg Bool.false_ne_true,
    countP_flatMap_of_countP_eq_toNat (destinationEvents_countP_isSend p e k f), snapshotOf_length, hroutes]

/-- Of N destinations, U without a route, N - U have one. -/
theorem countP_route_isSome (l : List DestAnswer) :
    (l.countP fun d => d.route.isSome) = l.length - (l.filter fun d => d.route.isNone).length := by
  have hsplit := List.length_eq_countP_add_countP (fun d : DestAnswer => d.route.isNone) (l := l)
  simp only [Option.isNone_iff_eq_none, ← ne_eq, ← Option.isSome_iff_ne_none, Bool.decide_eq_true] at hsplit
  rw [hsplit, ← List.countP_eq_length_filter, Nat.add_sub_cancel_left]

/-- Settles O47: each destination answered makes one resolve, and one send if it resolves. -/
theorem dispatchSendsOncePerResolvedDestination : Obligations.DispatchSendsOncePerResolvedDestination := by
  unfold Obligations.DispatchSendsOncePerResolvedDestination
  intro flags len s hlen answers unresolved
  obtain ⟨t, ht, htrace, hlast⟩ := exec_dispatch_trace hlen flags
  have hanswers : answerOf s.env 0 = answers := rfl
  refine ⟨t, ht, ?_, ?_, hlast⟩
  · rw [htrace, List.countP_append, dispatchEvents_countP_isResolve, hanswers]
    rfl
  · rw [htrace, List.countP_append, dispatchEvents_countP_isSend, hanswers, countP_route_isSome]
    rfl

/-! ### An empty snapshot (R155) -/

/-- One call of DISPATCHER transfers the events of one dispatch. -/
theorem dispatcher_newTransfers (k : Nat) (f : Frame) (s : State) :
    newTransfers s (dispatcher k f s) = dispatchTransfers s.params s.env k f := by
  obtain ⟨j, hdispatcher⟩ := dispatcher_spec k f s
  rw [hdispatcher]
  exact List.drop_left

/-- A query answered by no destination makes no resolve and no send. -/
theorem dispatchEvents_of_no_destination {e : Env} {k : Nat} (h : e.queries.getD k [] = []) (p : Params) (f : Frame) :
    dispatchEvents p e k f = [.destQuery] := by
  have hanswer : answerOf e k = [] := by rw [answerOf, h]; rfl
  rw [dispatchEvents, snapshotOf_length, hanswer]
  rfl

/-- Settles O48: with no destination the dispatch is its query, for one call and for the command. -/
theorem dispatchToNoDestinationOnlyQueries : Obligations.DispatchToNoDestinationOnlyQueries := by
  unfold Obligations.DispatchToNoDestinationOnlyQueries
  constructor
  · intro k f s hnone
    rw [dispatcher_newTransfers, dispatchTransfers, dispatchEvents_of_no_destination hnone]
    rfl
  · intro flags len s hlen hnone
    obtain ⟨t, ht, htrace, -⟩ := exec_dispatch_trace hlen flags
    rw [dispatchEvents_of_no_destination hnone] at htrace
    exact ⟨t, ht, htrace⟩

/-! ### The frame and the registers (R160, R161) -/

/-- A send of one dispatch carries the dispatch's frame. -/
theorem send_mem_dispatchTransfers {p : Params} {e : Env} {k : Nat} {f g : Frame} {j : Byte} {r : Route}
    (h : .event (.send j r g) ∈ dispatchTransfers p e k f) : g = f := by
  simp only [dispatchTransfers, dispatchEvents, List.map_cons, List.mem_cons, List.mem_map, List.mem_flatMap,
    Transfer.event.injEq, reduceCtorEq, false_or] at h
  obtain ⟨ev, ⟨i, -, hev⟩, rfl⟩ := h
  simp only [destinationEvents, List.mem_cons, reduceCtorEq, false_or] at hev
  split at hev
  · cases hev
  · obtain ⟨-, -, rfl⟩ := Event.send.inj (List.mem_singleton.1 hev)
    rfl

/-- One call of DISPATCHER writes no persistent register, and nothing outside the block (R161). -/
theorem dispatcher_keeps_registers (k : Nat) (f : Frame) (s : State) :
    SameFramer s (dispatcher k f s) ∧ SameSampler s (dispatcher k f s) ∧ SameStatus s (dispatcher k f s) ∧
      SameOutside s (dispatcher k f s) := by
  obtain ⟨j, hdispatcher⟩ := dispatcher_spec k f s
  rw [hdispatcher]
  exact ⟨⟨rfl, rfl⟩, ⟨rfl, rfl, rfl, rfl⟩, ⟨rfl, rfl⟩, rfl, rfl, rfl, fun _ => rfl⟩

/-- Settles O49: DISPATCHER writes SNAP and J only, and its transfers are a closed form in the parameters and draws. -/
theorem dispatcherKeepsTheFrameAndTheRegisters : Obligations.DispatcherKeepsTheFrameAndTheRegisters := by
  unfold Obligations.DispatcherKeepsTheFrameAndTheRegisters
  intro k f s
  obtain ⟨hframer, hsampler, hstatus, houtside⟩ := dispatcher_keeps_registers k f s
  refine ⟨fun j r g hsend => ?_, hframer, hsampler, hstatus, houtside, fun s' hp he => ?_⟩
  · rw [dispatcher_newTransfers] at hsend
    exact send_mem_dispatchTransfers hsend
  · rw [dispatcher_newTransfers, dispatcher_newTransfers, hp, he]

end Sys2Proof.Machine

/-! ## Pipeline and control: the command cycle, NOP and BLOB (43_pipeline_and_control.md) -/

namespace Sys2Proof.Machine

/-! ### The response of a word (R170, R171) -/

/-- A command's response is its last transfer and its only one of that form. -/
theorem made_ends_in_only_response (i : Instr) (s : State) :
    ∃ l st c v, made i s = l ++ [.event (.resp st c v)] ∧ ∀ x ∈ l, ∀ st c v, x ≠ .event (.resp st c v) := by
  obtain ⟨l, st, c, v, hmade, hmembers⟩ := made_members i s
  refine ⟨l, st, c, v, hmade, fun x hx st' c' v' hresp => ?_⟩
  rcases hmembers x hx with ⟨a, rfl⟩ | ⟨f, rfl⟩ | ⟨ev, rfl, hdispatch⟩ | ⟨n, -, harrival⟩
  · cases hresp
  · cases hresp
  · cases hresp
    cases hdispatch
  · rw [(mem_arrival harrival).2] at hresp
    cases hresp

/-- Settles O24: a command ends in its only response, and raising an error transfers a response and nothing else. -/
theorem everyWordEndsInItsOnlyResponse : Obligations.EveryWordEndsInItsOnlyResponse := by
  unfold Obligations.EveryWordEndsInItsOnlyResponse
  intro w s
  obtain ⟨t, ht⟩ := runWord_total w s
  rcases runWord_cases ht with ⟨i, -, hexec⟩ | ⟨c, -, rfl⟩
  · obtain ⟨l, st, c, v, hmade, honly⟩ := made_ends_in_only_response i s
    exact ⟨t, l, st, c, v, ht, hmade ▸ exec_transfers hexec, honly⟩
  · exact ⟨raise c s, [], 1, causeCode c, 0, ht, rfl, fun x hx => absurd hx List.not_mem_nil⟩

/-! ### The step of a word whose handshakes complete (R242) -/

/-- With every handshake completing, the step of a presented word runs it where it is accepted. -/
theorem step_of_command_completing {s : State} {w : Word} {e : Env} {rest : List HostAction}
    (h : s.pending = .command w e :: rest) (he : e.handshakesComplete) :
    step s = runWord w { s with pending := rest, env := e } := by
  rw [step_of_command h]
  exact settle_none he

/-- Settles O11: running a word that decodes to a command is `exec` of it. -/
theorem stepRunsTheDecodedCommand : Obligations.StepRunsTheDecodedCommand := by
  unfold Obligations.StepRunsTheDecodedCommand
  intro s w e rest i hpending hw he
  rw [step_of_command_completing hpending he, runWord_of_instr hw]

/-- Settles O12: running a word that decodes to an error is raising it. -/
theorem stepRaisesTheErrorOfABadWord : Obligations.StepRaisesTheErrorOfABadWord := by
  unfold Obligations.StepRaisesTheErrorOfABadWord
  intro s w e rest c hpending hw he
  rw [step_of_command_completing hpending he, runWord_of_error hw]

/-! ### NOP (R175) -/

/-- Settles O33: the rule only responds, and a word of its opcode is its own word or breaks a zero field. -/
theorem nopOnlyResponds : Obligations.NopOnlyResponds := by
  unfold Obligations.NopOnlyResponds
  refine ⟨fun s => rfl, rfl, fun w hop hw => ?_⟩
  have hop' : (Fields.ofWord w).op.toNat = 0 := (Fields.ofWord_toNat w).1.trans hop
  have hcommand : (Fields.ofWord w).command = some .nop := by simp only [Fields.command, hop']
  exact decode_of_command_of_ne_encode hcommand hw

/-! ### What BLOB leaves and transfers (R172, R173) -/

/-- The byte total after an arrival: 0 when it closes the window, the count while the timer runs (R131). -/
theorem afterArrival_byteTotal (c : Addr) (s : State) :
    (afterArrival c s).byteTotal =
      if windowCloses s s.env.nowMs then 0
      else if s.timerValid then s.byteTotal + c.setWidth 64 else s.byteTotal := by
  unfold afterArrival
  split
  · rfl
  · split <;> rfl

/-- An arrival that closes the window starts the next one at now (R131). -/
theorem afterArrival_windowStart (c : Addr) (s : State) :
    (afterArrival c s).windowStart = if windowCloses s s.env.nowMs then s.env.nowMs else s.windowStart := by
  unfold afterArrival
  split
  · rfl
  · split <;> rfl

/-- Settles O50: `made` gives BLOB's transfers, and `after` its registers as those of an arrival and of framing. -/
theorem blobSamplesFramesAndDispatches : Obligations.BlobSamplesFramesAndDispatches := by
  unfold Obligations.BlobSamplesFramesAndDispatches
  intro n s
  obtain ⟨t, ht, hleft⟩ := exec_spec (.blob n) s
  obtain ⟨hseq, hfrag⟩ := exec_framing (.inr rfl) ht
  obtain ⟨htotal, hstart, hvalid, hrate⟩ := hleft.sameSampler
  obtain ⟨hstatus, -⟩ := exec_of_wellFormed (i := .blob n) rfl ht
  refine ⟨t, ht, ?_, hseq, hfrag, ?_, ?_, ?_, ?_, exec_outside ht, hstatus⟩
  · rw [List.append_assoc (arrivalTransfers s n)]
    exact exec_transfers ht
  · exact hvalid.symm.trans (afterArrival_timerValid n s)
  · exact htotal.symm.trans (afterArrival_byteTotal n s)
  · exact hstart.symm.trans (afterArrival_windowStart n s)
  · exact hrate.symm.trans (afterArrival_rateSnapshot n s)

/-! ### BLOB beside SAMPLE then FRAME (R174) -/

/-- FRAME after SAMPLE leaves what BLOB leaves, the log of transfers apart. -/
theorem after_frame_after_sample (n : Addr) (s : State) (l : List Transfer) :
    (after (.frame n) (after (.sample n) s)).setTransfers l = (after (.blob n) s).setTransfers l := by
  simp only [after, State.setTransfers, afterArrival_params, afterArrival_seq]

/-- SAMPLE changes nothing that FRAME's transfers depend on. -/
theorem made_frame_after_sample (n : Addr) (s : State) :
    made (.frame n) (after (.sample n) s) = made (.frame n) s := by
  simp only [made, after, afterArrival_params, afterArrival_env, afterArrival_seq]

theorem SameButTransients.sameStatus {s t : State} (h : SameButTransients s t) : SameStatus s t := by
  obtain ⟨-, -, -, -, -, -, -, herr, hcause, -⟩ := h.fields
  exact ⟨herr.symm, hcause.symm⟩

theorem SameButTransients.sameOutside {s t : State} (h : SameButTransients s t) : SameOutside s t := by
  obtain ⟨hparams, -, -, -, -, -, -, -, -, henv, hpending, -⟩ := h.fields
  exact ⟨hparams.symm, henv.symm, hpending.symm, fun a => by rw [State.readByte, State.readByte, henv]⟩

theorem SameButTransients.setTransfers {s t : State} (h : SameButTransients s t) (l : List Transfer) :
    SameButTransients (s.setTransfers l) (t.setTransfers l) :=
  SameButTransients.map (f := State.setTransfers l) (fun _ => rfl) h

/-- BLOB and SAMPLE then FRAME leave the same state but for the transient registers and the log of transfers. -/
theorem exec_frame_after_sample {n : Addr} {s t v : State} (ht : exec (.blob n) s = .next t)
    (hv : exec (.frame n) (after (.sample n) s) = .next v) :
    SameButTransients v (t.setTransfers v.transfers) := by
  have hframe : SameButTransients v ((after (.frame n) (after (.sample n) s)).setTransfers v.transfers) :=
    (exec_next hv).setTransfers v.transfers
  rw [after_frame_after_sample] at hframe
  exact hframe.trans ((exec_next ht).setTransfers v.transfers).symm

/-! ### The trace without the dispatch events (R174) -/

/-- The trace of a list of transfers without its dispatch events. -/
def traceButDispatch (l : List Transfer) : List Event := (traceOf l).filter fun e => !e.ofDispatch

theorem traceButDispatch_append (a b : List Transfer) :
    traceButDispatch (a ++ b) = traceButDispatch a ++ traceButDispatch b := by
  rw [traceButDispatch, traceOf_append, List.filter_append]
  rfl

theorem traceButDispatch_flatMap (f : Nat → List Transfer) (l : List Nat) :
    traceButDispatch (l.flatMap f) = l.flatMap fun i => traceButDispatch (f i) := by
  induction l with
  | nil => rfl
  | cons i l ih => rw [List.flatMap_cons, traceButDispatch_append, ih, List.flatMap_cons]

/-- A dispatch shows its own events only (R153). -/
theorem traceButDispatch_dispatch (p : Params) (e : Env) (k : Nat) (f : Frame) :
    traceButDispatch (dispatchTransfers p e k f) = [] := by
  rw [traceButDispatch, dispatchTransfers, traceOf_events, List.filter_eq_nil_iff]
  intro ev hev
  obtain ⟨_, heq, hdispatch⟩ := mem_dispatch (List.mem_map_of_mem (f := Transfer.event) hev)
  cases heq
  simp [hdispatch]

/-- Dispatching the frames adds dispatch events only. -/
theorem traceButDispatch_relayed (p : Params) (e : Env) (sq : BitVec 5) (n : Nat) :
    traceButDispatch (relayedTransfers p e sq n) = traceButDispatch (framedTransfers p e sq n) := by
  simp only [relayedTransfers, framedTransfers, traceButDispatch_flatMap, traceButDispatch_append,
    traceButDispatch_dispatch, List.append_nil]

/-- BLOB shows what SAMPLE shows before its response, then what FRAME shows, but for the dispatch events. -/
theorem traceButDispatch_made_blob (n : Addr) (s : State) :
    traceButDispatch (made (.blob n) s) =
      traceButDispatch (arrivalTransfers s n) ++ traceButDispatch (made (.frame n) s) := by
  simp only [made, traceButDispatch_append, traceButDispatch_relayed]

/-- A trace with no dispatch event is kept whole. -/
theorem traceButDispatch_eq_traceOf {l : List Transfer} (h : ∀ ev, .event ev ∈ l → ev.ofDispatch = false) :
    traceButDispatch l = traceOf l := by
  rw [traceButDispatch, List.filter_eq_self]
  intro ev hev
  obtain ⟨x, hx, hxev⟩ := List.mem_filterMap.1 hev
  cases x with
  | blobRd a => cases hxev
  | event ev' =>
    cases hxev
    simp [h ev hx]

/-- The sampler shows no dispatch event (R131). -/
theorem traceButDispatch_arrival (s : State) (n : Addr) :
    traceButDispatch (arrivalTransfers s n) = traceOf (arrivalTransfers s n) := by
  refine traceButDispatch_eq_traceOf fun ev hev => ?_
  cases (mem_arrival hev).2
  rfl

/-- FRAME shows no dispatch event (R101). -/
theorem traceButDispatch_made_frame (n : Addr) (s : State) :
    traceButDispatch (made (.frame n) s) = traceOf (made (.frame n) s) := by
  refine traceButDispatch_eq_traceOf fun ev hev => ?_
  simp only [made, framedTransfers, List.mem_append, List.mem_flatMap, List.mem_singleton] at hev
  rcases hev with ⟨i, -, hi⟩ | hok
  · rcases mem_frame hi with ⟨a, ha⟩ | hframe
    · cases ha
    · cases hframe
      rfl
  · cases hok
    rfl

/-- SAMPLE's trace without its response is what its arrival shows. -/
theorem traceOf_made_sample_dropLast (n : Addr) (s : State) :
    (traceOf (made (.sample n) s)).dropLast = traceOf (arrivalTransfers s n) := by
  rw [made, traceOf_append]
  exact List.dropLast_concat

/-- Settles O51: the registers by `exec_frame_after_sample`, the traces by the closed forms in `made`. -/
theorem blobIsSampleThenFrame : Obligations.BlobIsSampleThenFrame := by
  unfold Obligations.BlobIsSampleThenFrame
  intro n s
  obtain ⟨t, ht, -⟩ := exec_spec (.blob n) s
  have hu : exec (.sample n) s = .next (after (.sample n) s) := execSample_spec n s
  obtain ⟨v, hv, -⟩ := exec_spec (.frame n) (after (.sample n) s)
  have hsame := exec_frame_after_sample ht hv
  refine ⟨t, _, v, ht, hu, hv, hsame.sameFramer, hsame.sameSampler, hsame.sameStatus, hsame.sameOutside,
    exec_framing_getLast? (.inr rfl) ht, ?_⟩
  rw [exec_newTransfers ht, exec_newTransfers hu, exec_newTransfers hv, made_frame_after_sample,
    traceOf_made_sample_dropLast]
  calc (traceOf (made (.blob n) s)).filter (fun e => !e.ofDispatch)
      = traceButDispatch (arrivalTransfers s n) ++ traceButDispatch (made (.frame n) s) :=
        traceButDispatch_made_blob n s
    _ = traceOf (arrivalTransfers s n) ++ traceOf (made (.frame n) s) := by
        rw [traceButDispatch_arrival, traceButDispatch_made_frame]

end Sys2Proof.Machine

/-! ## Exceptions: the command errors (60_exceptions.md) -/

namespace Sys2Proof.Machine

/-! ### The errors of the decoder (R202, R203) -/

/-- Settles O5: the opcode map names no command for these opcodes. -/
theorem reservedOpcodeRaisesCauseOne : Obligations.ReservedOpcodeRaisesCauseOne := by
  unfold Obligations.ReservedOpcodeRaisesCauseOne
  refine ⟨rfl, fun w s hop => runWord_of_error ?_ s⟩
  have hnone : (Fields.ofWord w).command = none := by
    rw [Fields.command_eq_none, (Fields.ofWord_toNat w).1]
    exact hop
  rw [decode, Fields.decoded, hnone]

/-- The zero fields of a word that decodes to a command, as numbers (R74, R75). -/
theorem zero_fields_of_decode {w : Word} {i : Instr} (h : decode w = .instr i) (hop : w.toNat % 16 ≤ 6) :
    w.toNat / 2 ^ 4 % 16 = 0 ∧ w.toNat / 2 ^ 24 % 256 = 0 ∧
      (w.toNat % 16 ≠ 4 → w.toNat % 16 ≠ 6 → w.toNat / 2 ^ 8 % 256 = 0) ∧
      (w.toNat % 16 ≠ 4 → w.toNat / 2 ^ 16 % 256 = 0) ∧
      (w.toNat % 16 = 0 ∨ w.toNat % 16 = 4 ∨ w.toNat % 16 = 5 ∨ w.toNat % 16 = 6 → w.toNat / 2 ^ 32 = 0) := by
  obtain ⟨hop', hrsv0, ha, hb, hrsv1, hn⟩ := Fields.ofWord_toNat w
  have hzero := (decode_eq_instr_iff.1 h).2
  rw [Fields.mustBeZero_iff _ (hop'.trans_le hop)] at hzero
  simp only [← BitVec.toNat_inj, hop', hrsv0, ha, hb, hrsv1, hn] at hzero
  exact hzero

/-- Settles O6: with a nonzero field the word is not its command's one word. -/
theorem nonzeroReservedFieldRaisesCauseTwo : Obligations.NonzeroReservedFieldRaisesCauseTwo := by
  unfold Obligations.NonzeroReservedFieldRaisesCauseTwo
  refine ⟨rfl, fun w s hop hnonzero => ?_⟩
  obtain ⟨i, hcommand⟩ := Fields.exists_command ((Fields.ofWord_toNat w).1.trans_le hop)
  refine runWord_of_error (decode_of_command_of_ne_encode hcommand fun hw => ?_) s
  obtain ⟨hrsv0, hrsv1, ha, hb, hn⟩ := zero_fields_of_decode (decode_of_encode_eq hw.symm) hop
  rcases hnonzero with h | h | ⟨hop4, hop6, h⟩ | ⟨hop4, h⟩ | ⟨hops, h⟩
  · exact h hrsv0
  · exact h hrsv1
  · exact h (ha hop4 hop6)
  · exact h (hb hop4)
  · exact h (hn hops)

/-! ### Taking a command error (R201) -/

/-- Settles O9: a word raises or answers OK, and raising answers with its own cause and value 0. -/
theorem commandErrorChangesOnlyStatus : Obligations.CommandErrorChangesOnlyStatus := by
  unfold Obligations.CommandErrorChangesOnlyStatus
  refine ⟨raise_eq, fun w s t c v h hlast => ?_⟩
  rcases runWord_ok_or_raise h with ⟨e, rfl⟩ | ⟨-, v', hok⟩
  · rw [raise_getLast?] at hlast
    cases hlast
    exact ⟨e, rfl, rfl, rfl⟩
  · rw [hok] at hlast
    cases hlast

/-! ### The idle block (R218, R231) -/

/-- Settles O13: the step of an idle block. -/
theorem stepWithNothingPresentedKeepsTheState : Obligations.StepWithNothingPresentedKeepsTheState := by
  unfold Obligations.StepWithNothingPresentedKeepsTheState
  exact fun s => step_of_idle

/-! ### The value check of DISPATCH (R204) -/

/-- The word R85 gives for DISPATCH decodes to it. -/
theorem decode_dispatch_word (flags len : Byte) :
    decode (len.setWidth 64 <<< 16 ||| flags.setWidth 64 <<< 8 ||| 0x4) = .instr (.dispatch flags len) := by
  obtain ⟨-, -, -, -, hdispatch, -⟩ := encodedWordIsTheTablesExpression
  exact decode_of_encode_eq (hdispatch flags len)

/-- Settles O46: the word decodes to the command, which raises cause 3. -/
theorem dispatchTooLongRaisesCauseThree : Obligations.DispatchTooLongRaisesCauseThree := by
  unfold Obligations.DispatchTooLongRaisesCauseThree
  exact fun flags len s hlen =>
    ⟨runWord_of_instr (decode_dispatch_word flags len) s, exec_dispatch_of_tooLong hlen flags⟩

end Sys2Proof.Machine

/-! ## Reset, clock duty and hang (70_reset_and_hazards.md) -/

namespace Sys2Proof.Machine

/-! ### What reset sets and what it leaves alone (R230, R247) -/

theorem applyReset_resetRegisters (s : State) : ResetRegisters (applyReset s) :=
  ⟨rfl, rfl, rfl, rfl, rfl, rfl, rfl, rfl⟩

@[simp] theorem applyReset_params (s : State) : (applyReset s).params = s.params := rfl
@[simp] theorem applyReset_env (s : State) : (applyReset s).env = s.env := rfl
@[simp] theorem applyReset_pending (s : State) : (applyReset s).pending = s.pending := rfl
@[simp] theorem applyReset_transfers (s : State) : (applyReset s).transfers = s.transfers := rfl

/-- Settles O15: the step of a reset is `applyReset`. -/
theorem resetClearsEveryPersistentRegister : Obligations.ResetClearsEveryPersistentRegister := by
  unfold Obligations.ResetClearsEveryPersistentRegister
  exact fun s rest hp => ⟨_, step_of_reset hp, applyReset_resetRegisters _, applyReset_transfers _,
    applyReset_params _, applyReset_env _, applyReset_pending _⟩

/-! ### Reset during a command (R232) -/

theorem newTransfers_of_append {s t : State} {l : List Transfer} (h : t.transfers = s.transfers ++ l) :
    newTransfers s t = l := by
  rw [newTransfers, h, List.drop_left]

/-- Without its last transfer, a word transfers no response (R170, R171). -/
theorem not_resp_of_mem_dropLast {w : Word} {s t : State} (h : runWord w s = .next t) {x : Transfer}
    (hx : x ∈ (newTransfers s t).dropLast) (st : BitVec 1) (c : BitVec 4) (v : Word) : x ≠ .event (.resp st c v) := by
  obtain ⟨t', l, st', c', v', ht', hl, honly⟩ := everyWordEndsInItsOnlyResponse w s
  obtain rfl : t = t' := by rw [h] at ht'; cases ht'; rfl
  rw [newTransfers_of_append hl, List.dropLast_concat] at hx
  exact honly x hx st c v

theorem cutAt_of_completing {e : Env} (h : e.handshakesComplete) (completed : Nat) : cutAt e completed = completed := by
  simp only [cutAt, h]

theorem cutAt_le (e : Env) (completed : Nat) : cutAt e completed ≤ completed := by
  unfold cutAt
  split
  · exact Nat.le_refl _
  · exact Nat.min_le_left _ _

/-- Settles O16: the cut keeps transfers from before the word's response, which is its last transfer, and then resets. -/
theorem resetDuringACommandKeepsAPrefixWithoutResp : Obligations.ResetDuringACommandKeepsAPrefixWithoutResp := by
  unfold Obligations.ResetDuringACommandKeepsAPrefixWithoutResp
  intro s u w e completed rest hp hrun
  have hrun' : runWord w (accept e rest s) = .next u := hrun
  have hstep := step_of_resetDuring hp
  rw [hrun'] at hstep
  refine ⟨_, cutAt e completed, hstep, applyReset_resetRegisters _, applyReset_transfers _, fun x hx => ?_,
    fun he => cutAt_of_completing he completed, cutAt_le e completed, applyReset_params _,
    applyReset_pending _⟩
  rw [newTransfers_of_append (applyReset_transfers _)] at hx
  exact not_resp_of_mem_dropLast hrun' (List.mem_of_mem_take hx)

/-! ### The parameters (R247) -/

/-- Settles O21: neither a word nor a reset writes the parameters. -/
theorem everyStepKeepsTheParameters : Obligations.EveryStepKeepsTheParameters := by
  unfold Obligations.EveryStepKeepsTheParameters
  intro s t h
  rcases step_cases h with ⟨-, rfl⟩ | ⟨w, e, rest, -, hrun⟩ | ⟨rest, -, rfl⟩ | ⟨w, e, c, rest, u, -, -, rfl⟩
  · rfl
  · exact (runWord_outside hrun).1
  · exact applyReset_params _
  · exact applyReset_params _

/-! ### The clock duty (R241) -/

/-- Clock values that never decrease from a bound on never decrease from a lower bound on. -/
theorem clockMonotone_mono {lo lo' : Nat} (h : lo' ≤ lo) {l : List HostAction} (hl : clockMonotone lo l) :
    clockMonotone lo' l := by
  induction l with
  | nil => trivial
  | cons a rest ih =>
    cases a with
    | command w e => exact ⟨h.trans hl.1, hl.2⟩
    | reset => exact ih hl
    | resetDuring w e c => exact ⟨h.trans hl.1, hl.2⟩

/-- After a reset the window starts at 0, below every clock value. -/
theorem applyReset_clockKept {s : State} {lo : Nat} (h : clockMonotone lo s.pending) : ClockKept (applyReset s) :=
  clockMonotone_mono (Nat.zero_le lo) h

/-- A word leaves `WINDOW_START` at or below the clock it met. -/
theorem runWord_clockKept {w : Word} {s t : State} (h : runWord w s = .next t)
    (hnow : s.windowStart.toNat ≤ s.env.nowMs.toNat) (hrest : clockMonotone s.env.nowMs.toNat s.pending) :
    ClockKept t := by
  obtain ⟨-, -, hpending⟩ := runWord_outside h
  have hstart : t.windowStart.toNat ≤ s.env.nowMs.toNat := by
    rcases runWord_window h with hkept | htaken
    · rwa [hkept]
    · rw [htaken]
  rw [ClockKept, hpending]
  exact clockMonotone_mono hstart hrest

/-- Settles O23: WINDOW_START is kept, is the clock of the word just run, or is 0 after a reset. -/
theorem everyStepKeepsTheClockAboveTheWindow : Obligations.EveryStepKeepsTheClockAboveTheWindow := by
  unfold Obligations.EveryStepKeepsTheClockAboveTheWindow
  refine ⟨fun s t hclock h => ?_, fun s w e rest hclock hp => ?_⟩
  · rcases step_cases h with
      ⟨-, rfl⟩ | ⟨w, e, rest, hp, hrun⟩ | ⟨rest, hp, rfl⟩ | ⟨w, e, c, rest, u, hp, -, rfl⟩
    · exact hclock
    all_goals rw [ClockKept, hp] at hclock
    · obtain ⟨hnow, hrest⟩ := hclock
      exact runWord_clockKept hrun hnow hrest
    · exact applyReset_clockKept (s := s.setPending rest) hclock
    · obtain ⟨-, hrest⟩ := hclock
      exact applyReset_clockKept hrest
  · rw [ClockKept, hp] at hclock
    obtain ⟨hnow, -⟩ := hclock
    rw [elapsedMs_eq]
    exact Nat.sub_add_cancel hnow

/-! ### The hang (R244) -/

theorem stalls_of_some {e : Env} {k : Nat} (h : e.stall = some k) (m : Nat) : stalls e m = decide (k < m) := by
  simp only [stalls, h]

/-- A command stalled at transfer k is stuck exactly when it makes more than k transfers (R244). -/
theorem settle_of_stall {s t : State} {k : Nat} (h : s.env.stall = some k) :
    settle s (.next t) = if k < (newTransfers s t).length then .fault .handshakeNeverCompletes else .next t := by
  simp only [settle, stalls_of_some h, newTransfers, List.length_drop, decide_eq_true_eq]

/-- Settles O14: the step settles the word's outcome by the number of its transfers. -/
theorem stalledHandshakeIsAStuckCommand : Obligations.StalledHandshakeIsAStuckCommand := by
  unfold Obligations.StalledHandshakeIsAStuckCommand
  intro s t w e rest k hp hstall hrun
  have hrun' : runWord w (accept e rest s) = .next t := hrun
  have hstep : step s = if k < (newTransfers s t).length then .fault .handshakeNeverCompletes else .next t := by
    rw [step_of_command hp, hrun']
    exact settle_of_stall hstall
  exact ⟨fun hk => hstep.trans (if_pos hk), fun hk => hstep.trans (if_neg (Nat.not_lt.2 hk))⟩

end Sys2Proof.Machine
